-- ==== Sys2Proof/Word.lean ====
section
/-! DEFINITION. The word types of the block (R7): register values, data bytes and address bytes
are 8 bits, a target address is 7 bits, a dispatch vector is 16 bits (R88). Lengths, cursors and
counts are mathematical integers (R9) and are written `Int`; a frequency is a `Nat` of Hz (R7). -/

namespace Sys2Proof

/-- An 8-bit register value, data byte or address byte (R7). -/
abbrev Byte := BitVec 8

/-- A 7-bit target address, 0 to 127 (R7, R20). -/
abbrev Addr7 := BitVec 7

/-- The 16-bit dispatch vector `V = (c << 8) | s` of R88. -/
abbrev Vec16 := BitVec 16

end Sys2Proof
end

