-- ==== Sys2Proof/Syntax.lean ====
section
/-! DEFINITION. The block's "instruction set" (30_encoding.md, opcode_table.json): one constructor
of `Instr` per row of the table, with the operand types its rules name, and the moves of the
scheduler (R11) that select an instruction by agent phase or event. -/

namespace Sys2Proof

/-- A message (R20). `otherFlag` says that a flag outside `read`, `norestart`, `nostart` is set and
`extended` that extended (10-bit) addressing is asked for: both are refused forms (R91). `buffer` is
the caller-memory address of the first of `length` bytes. -/
structure Message where
  addr      : Addr7
  read      : Bool
  norestart : Bool
  nostart   : Bool
  otherFlag : Bool
  extended  : Bool
  buffer    : Nat
  length    : Int
  frequency : Nat
  deriving DecidableEq, Repr, Inhabited

/-- Transfer Status (R22), in the order of the spec's codes: OK = 0, ARBITRATION_LOST = 1,
TIMEOUT = 2, NAK = 3. -/
inductive Status where
  | ok
  | arbitrationLost
  | timeout
  | nak
  deriving DecidableEq, Repr

/-- The phase labels of a caller thread (R33). -/
inductive Phase where
  | idle | tLock | tInit | tFreq | tClear | tLoop | tStep | tAcq
  | aTest | aRestart | aWaitfree | aStart | aAddr
  | tArm | tWait | tCancel | tExit | tResult | tUnlock | done
  deriving DecidableEq, Repr

/-- The context a call is made from (R171, R240). -/
inductive Context where
  | thread
  | interrupt
  | timer
  deriving DecidableEq, Repr

/-- The agents whose rules can raise a model fault (R11, R40): a caller thread, or the interrupt
handler with the walker it calls. -/
inductive Runner where
  | caller (t : Nat)
  | handler
  deriving DecidableEq, Repr

/-- The two buffer primitives of R64. -/
inductive BufOp where
  | read
  | write (v : Byte)
  deriving DecidableEq, Repr

/-- The environment's choice when a transmitted byte completes (R229). -/
inductive TxOutcome where
  | ack
  | nak
  | lost
  deriving DecidableEq, Repr

/-- The environment's choice when a reception completes (R230). -/
inductive RxOutcome where
  | byte (v : Byte)
  | lost
  deriving DecidableEq, Repr

/-- The walker's outcomes (R167). -/
inductive WalkOutcome where
  | advancedSignalled
  | advancedMerged
  | terminated
  deriving DecidableEq, Repr

/-- The rows of the dispatch table of R88 (format ISR_DISPATCH). -/
inductive Branch where
  | guard
  | arbl
  | txNak
  | txWrByte
  | txWrDone
  | txWrMerge
  | txRdNoack
  | txRdAck
  | rxLastRestart
  | rxLastMerge1
  | rxLastMerge
  | rxPenultRestart
  | rxByte
  deriving DecidableEq, Repr

/-- One constructor per row of opcode_table.json. An operand `t` is the caller thread that takes
the step, `v` a dispatch vector, `st` a status snapshot. -/
inductive Instr where
  -- register commands (R84 to R87)
  | cmdStart
  | cmdRestart
  | cmdRxAck
  | cmdRxNoack
  | cmdTx
  | cmdStop
  | cmdIdle
  | clrAll
  | clrIf
  | addrW (a : Addr7)
  | addrR (a : Addr7)
  | dataW (d : Byte)
  | dataR
  | dummyR
  | freqF (f : Byte)
  | freqFlt (g : Byte)
  | rdS
  | rdC1
  -- dispatch rows of the interrupt handler (R88)
  | isrGuard (v : Vec16)
  | isrArbl (v : Vec16)
  | isrTxNak (v : Vec16)
  | isrTxWrByte (v : Vec16)
  | isrTxWrDone (v : Vec16)
  | isrTxWrMerge (v : Vec16)
  | isrTxRdNoack (v : Vec16)
  | isrTxRdAck (v : Vec16)
  | isrRxLastRestart (v : Vec16)
  | isrRxLastMerge1 (v : Vec16)
  | isrRxLastMerge (v : Vec16)
  | isrRxPenultRestart (v : Vec16)
  | isrRxByte (v : Vec16)
  -- handler steps (R130, R133, R140, R144)
  | isrEntry
  | isrClearMode (st : Byte)
  | isrRxDispatch
  | isrRxLastTail
  -- the Coordinator and Bus Acquisition
  | transfer (t : Nat) (msgs : List Message) (count : Int)
  | call (t : Nat) (ctx : Context) (msgs : List Message) (count : Int)
  | tLock (t : Nat)
  | tInit (t : Nat)
  | tFreq (t : Nat)
  | setFrequency (hz : Nat)
  | tClear (t : Nat)
  | tLoop (t : Nat)
  | tStep (t : Nat)
  | restartFor (r : Runner) (i : Int)
  | tAcq (t : Nat)
  | acquire (t : Nat)
  | aTest (t : Nat)
  | aRestart (t : Nat)
  | aWaitfree (t : Nat)
  | aStart (t : Nat)
  | aAddr (t : Nat)
  | tArm (t : Nat)
  | tWait (t : Nat)
  | tCancel (t : Nat)
  | tExit (t : Nat)
  | tResult (t : Nat)
  | tUnlock (t : Nat)
  | reset
  -- the Message Chain Walker
  | nextmsg
  | advanceSignal
  | advanceMerged
  | restartRecompute
  | terminate
  | stop
  | signal
  -- the watchdog
  | wdtArm (deadline g : Nat)
  | wdtCancel
  | wdtExpire
  | wdtHandler (g : Nat)
  -- interrupt delivery and the environment
  | irqDeliver
  | envBusCondition (v : Byte)
  | envTxComplete (o : TxOutcome)
  | envRxComplete (o : RxOutcome)
  | envDReadTx
  | envOtherMaster (busy : Bool)
  -- caller-memory primitives
  | bufReadWrite (r : Runner) (m : Message) (i : Int) (op : BufOp)
  | msg (r : Runner) (i : Int)
  deriving DecidableEq, Repr

/-- One move of one agent (R11): which agent steps next, with the draws the environment makes
(R229, R230, R232). `stray` is the move of the unconstrained environment of R234. No caller move stores
to caller memory, in a call or between calls: R69 and R245 forbid it during a call and give no step for
it at any other time, so a buffer holds what the memory was loaded with (DESIGN CHOICE, log entry 21). -/
inductive Move where
  /-- Caller thread `t` takes the step of its phase. -/
  | thread (t : Nat)
  /-- Caller `t` calls the transfer operation. -/
  | call (t : Nat) (ctx : Context) (msgs : List Message) (count : Int)
  /-- A caller calls the public reset operation. -/
  | resetCall
  /-- The peripheral interrupt is delivered, if it is pending. -/
  | irq
  /-- The watchdog expires, if it is armed. -/
  | expire
  /-- The byte being shifted out completes. -/
  | txComplete (o : TxOutcome)
  /-- The byte being received completes. -/
  | rxComplete (o : RxOutcome)
  /-- Another master takes the bus (`true`) or releases it (`false`). -/
  | otherMaster (busy : Bool)
  /-- The unconstrained environment sets the flags given `true`, and clears C1.MST if `clearMst`. -/
  | stray (iicif arbl rxak clearMst : Bool)
  deriving DecidableEq, Repr, Inhabited

/-- One entry of the schedule: a move of an agent, or a word of opcode_table.json put straight onto
the block (the host's interface; the block itself selects by phase and event). -/
inductive Slot where
  | move (m : Move)
  | word (nbits w : Nat)
  deriving DecidableEq, Repr

end Sys2Proof
end

