-- ==== Sys2Proof/Config.lean ====
section
/-! DEFINITION. What is fixed for a machine (R6): the types and the defaults of LAYOUT and REG_OFFSETS,
the OPEN parameters as uninterpreted constants, and the free values. The parameters with a default
(LAYOUT, REG_OFFSETS, RESTART_MODE, LATE_GUARD, EIO), the number of callers (N_CALLERS, OPEN) and the
choice of environment (R234) are in `State.params`, so that every statement holds for every value of
them. -/

namespace Sys2Proof

/-- RESTART_MODE (R6, D8): when the restart flag is recomputed. -/
inductive RestartMode where
  | perTransition
  | perStep
  deriving DecidableEq, Repr

/-- LAYOUT (R6): the bit position of each named field of C1 (R81) and S (R82). -/
structure Layout where
  en    : Nat
  ie    : Nat
  mst   : Nat
  tx    : Nat
  txak  : Nat
  rsta  : Nat
  busy  : Nat
  arbl  : Nat
  iicif : Nat
  rxak  : Nat
  deriving DecidableEq, Repr

/-- REG_OFFSETS (R80). -/
structure RegOffsets where
  f   : Nat
  c1  : Nat
  s   : Nat
  d   : Nat
  flt : Nat
  deriving DecidableEq, Repr

/-- MSG_FLAG_BITS (R89): the bit of each flag in a packed flag word. -/
structure MsgFlagBits where
  read      : Nat
  norestart : Nat
  nostart   : Nat
  deriving DecidableEq, Repr, Inhabited

/-- A layout is well formed (R81, R82): every field is a bit of an 8-bit register, and no two fields of
one register share a bit. -/
def Layout.wf (L : Layout) : Bool :=
  [L.en, L.ie, L.mst, L.tx, L.txak, L.rsta, L.busy, L.arbl, L.iicif, L.rxak].all (· < 8) &&
    decide [L.en, L.ie, L.mst, L.tx, L.txak, L.rsta].Nodup &&
    decide [L.busy, L.arbl, L.iicif, L.rxak].Nodup

/-- The default LAYOUT of R81 and R82. -/
def Layout.default : Layout where
  en := 7
  ie := 6
  mst := 5
  tx := 4
  txak := 3
  rsta := 2
  busy := 5
  arbl := 4
  iicif := 1
  rxak := 0

/-- The default REG_OFFSETS of R80. -/
def RegOffsets.default : RegOffsets where
  f := 0x01
  c1 := 0x02
  s := 0x03
  d := 0x04
  flt := 0x06

namespace Config

/-- I2C_BASE (R6, D2): OPEN. -/
opaque i2cBase : Nat

/-- I2C_IRQ (R6, D34): OPEN. -/
opaque i2cIrq : Nat

/-- WDT_TIMEOUT is this plus one, since R6 asks for a positive delay (D15): OPEN. -/
opaque wdtTimeoutPred : Nat

/-- WDT_TIMEOUT (R6): a positive delay; it decides nothing in the model (R276). -/
def wdtTimeout : Nat := wdtTimeoutPred + 1

/-- N_CALLERS is this plus one, since R6 asks for at least 1 (R6, U29): OPEN. -/
opaque nCallersPred : Nat

/-- N_CALLERS (R6, R241): how many caller threads may invoke the transfer operation. Reset takes it into
`State.params`. -/
def nCallers : Nat := nCallersPred + 1

/-- FREQ_TABLE (R6, D16): a total map from a requested frequency to the F and FLT bytes: OPEN. -/
opaque freqTable : Nat → Byte × Byte

/-- MSG_FLAG_BITS (R6, R89, D28): OPEN. -/
opaque msgFlagBits : MsgFlagBits

/-- FREE VALUE. The move taken when the schedule names none (R236: "The order is left open, and
every claim holds for every order"), with the environment's draws (R229, R230; DESIGN CHOICE, log
entry 1). -/
opaque freeMove : Nat → Move

/-- FREE VALUE. What the message array holds beyond the messages a caller passed, for a caller whose
`count` is larger than its array (a caller precondition violation, R245; DESIGN CHOICE, log entry
12). -/
opaque absentMessage : Nat → Message

end Config
end Sys2Proof
end

