-- ==== Sys2Proof/Machine/Flags.lean ====
section
/-! DEFINITION. The bit fields of the control and status registers (R81, R82) in a layout `L` (the
parameter LAYOUT of R6), the command bytes built from them (R84, R85), the interrupt condition (R227),
the write-1-to-clear rule of S (R61) and the bit patterns of the dispatch table (R88). -/

namespace Sys2Proof.Machine

/-- Bit `n` of a register value (R8). -/
def bitAt (v : Byte) (n : Nat) : Bool := v.getLsbD n

/-- `v` with bit `n` set to 1. -/
def setBitAt (v : Byte) (n : Nat) : Byte := v ||| (1#8 <<< n)

/-- `v` with bit `n` set to 0. -/
def clearBitAt (v : Byte) (n : Nat) : Byte := v &&& ~~~(1#8 <<< n)

/-- `v` with bit `n` set to `b`. -/
def putBitAt (v : Byte) (n : Nat) (b : Bool) : Byte := if b then setBitAt v n else clearBitAt v n

/-- `{F1, F2}` as a register value: exactly the bits at the given positions are 1 (R8). -/
def fieldsByte (positions : List Nat) : Byte := positions.foldl setBitAt 0#8

/-- C1.EN (R81). -/
def c1En (L : Layout) (v : Byte) : Bool := bitAt v L.en
/-- C1.IE (R81). -/
def c1Ie (L : Layout) (v : Byte) : Bool := bitAt v L.ie
/-- C1.MST (R81). -/
def c1Mst (L : Layout) (v : Byte) : Bool := bitAt v L.mst
/-- C1.TX (R81). -/
def c1Tx (L : Layout) (v : Byte) : Bool := bitAt v L.tx
/-- C1.TXAK (R81). -/
def c1Txak (L : Layout) (v : Byte) : Bool := bitAt v L.txak
/-- C1.RSTA (R81). -/
def c1Rsta (L : Layout) (v : Byte) : Bool := bitAt v L.rsta
/-- S.BUSY (R82). -/
def sBusy (L : Layout) (v : Byte) : Bool := bitAt v L.busy
/-- S.ARBL (R82). -/
def sArbl (L : Layout) (v : Byte) : Bool := bitAt v L.arbl
/-- S.IICIF (R82). -/
def sIicif (L : Layout) (v : Byte) : Bool := bitAt v L.iicif
/-- S.RXAK (R82); 1 means not acknowledged. -/
def sRxak (L : Layout) (v : Byte) : Bool := bitAt v L.rxak

/-- CMD_START = {EN, IE, MST, TX} (R84). -/
def cmdStartByte (L : Layout) : Byte := fieldsByte [L.en, L.ie, L.mst, L.tx]
/-- CMD_RESTART = {EN, IE, MST, TX, RSTA} (R84). -/
def cmdRestartByte (L : Layout) : Byte := fieldsByte [L.en, L.ie, L.mst, L.tx, L.rsta]
/-- CMD_RX_ACK = {EN, IE, MST} (R84). -/
def cmdRxAckByte (L : Layout) : Byte := fieldsByte [L.en, L.ie, L.mst]
/-- CMD_RX_NOACK = {EN, IE, MST, TXAK} (R84). -/
def cmdRxNoackByte (L : Layout) : Byte := fieldsByte [L.en, L.ie, L.mst, L.txak]
/-- CMD_TX = {EN, IE, MST, TX} (R84). -/
def cmdTxByte (L : Layout) : Byte := fieldsByte [L.en, L.ie, L.mst, L.tx]
/-- CMD_STOP = {EN, IE} (R84). -/
def cmdStopByte (L : Layout) : Byte := fieldsByte [L.en, L.ie]
/-- CMD_IDLE = {EN} (R84). -/
def cmdIdleByte (L : Layout) : Byte := fieldsByte [L.en]
/-- CLR_ALL = {ARBL, IICIF} (R85). -/
def clrAllByte (L : Layout) : Byte := fieldsByte [L.arbl, L.iicif]
/-- CLR_IF = {IICIF} (R85). -/
def clrIfByte (L : Layout) : Byte := fieldsByte [L.iicif]

/-- The named fields of C1 (R81); every other bit is always written 0. -/
def c1FieldsByte (L : Layout) : Byte := fieldsByte [L.en, L.ie, L.mst, L.tx, L.txak, L.rsta]

/-- The peripheral interrupt is pending: `EN = 1 and IE = 1 and IICIF = 1` (R227). -/
def irqPending (L : Layout) (c1 s : Byte) : Bool := c1En L c1 && c1Ie L c1 && sIicif L s

/-- S after a write of `v` (R61, R36): writing 1 clears ARBL and IICIF; nothing else changes. -/
def clearedStatus (L : Layout) (s v : Byte) : Byte := s &&& ~~~(v &&& clrAllByte L)

/-- The address byte of R86: the target address in bits 7 to 1, the direction in bit 0. -/
def addrByteOf (a : Addr7) (read : Bool) : Byte := (a.setWidth 8 <<< 1) ||| (if read then 1#8 else 0#8)

/-- `V = (c << 8) | s` (R88). -/
def dispatchVector (c s : Byte) : Vec16 := (c.setWidth 16 <<< 8) ||| s.setWidth 16

/-- The status snapshot inside a dispatch vector. -/
def vecStatus (v : Vec16) : Byte := v.setWidth 8

/-- The control snapshot inside a dispatch vector. -/
def vecControl (v : Vec16) : Byte := (v >>> 8).setWidth 8

/-- The mask of each row of R88 over the dispatch vector: the bits its pattern tests. -/
def branchMask (L : Layout) : Branch → Vec16
  | .guard => 0#16
  | .arbl => dispatchVector 0#8 (fieldsByte [L.arbl])
  | .txNak | .txWrByte | .txWrDone | .txWrMerge | .txRdNoack | .txRdAck =>
    dispatchVector (fieldsByte [L.tx]) (fieldsByte [L.arbl, L.rxak])
  | .rxLastRestart | .rxLastMerge1 | .rxLastMerge | .rxPenultRestart | .rxByte =>
    dispatchVector (fieldsByte [L.tx]) (fieldsByte [L.arbl])

/-- The match value of each row of R88: the tested bits that must be 1. -/
def branchPattern (L : Layout) : Branch → Vec16
  | .guard => 0#16
  | .arbl => dispatchVector 0#8 (fieldsByte [L.arbl])
  | .txNak => dispatchVector (fieldsByte [L.tx]) (fieldsByte [L.rxak])
  | .txWrByte | .txWrDone | .txWrMerge | .txRdNoack | .txRdAck =>
    dispatchVector (fieldsByte [L.tx]) 0#8
  | .rxLastRestart | .rxLastMerge1 | .rxLastMerge | .rxPenultRestart | .rxByte => 0#16

/-- The bit-pattern half of a row's condition (R88); the other half reads the Transfer State. -/
def branchMatches (L : Layout) (b : Branch) (v : Vec16) : Bool :=
  v &&& branchMask L b == branchPattern L b

end Sys2Proof.Machine
end

