-- ==== Sys2Proof/Machine/State.lean ====
section
/-! DEFINITION. Everything the spec gives the machine to hold (10_state.md), as plain data, and the
machine right after reset (R44, R261). -/

namespace Sys2Proof.Machine

/-- The five registers of the peripheral (R80). -/
inductive Reg where
  | c1
  | s
  | d
  | f
  | flt
  deriving DecidableEq, Repr

/-- The reasons of the model faults of the spec (R40, R224). -/
inductive FaultReason where
  | bufferOverrun
  | noNextMessage
  | emptyChain
  | unsetRead
  deriving DecidableEq, Repr

/-- The fault record (R40): a set of reasons, as one truth value for each. -/
structure FaultSet where
  bufferOverrun : Bool
  noNextMessage : Bool
  emptyChain    : Bool
  unsetRead     : Bool
  deriving DecidableEq, Repr

/-- The Transfer State (R23). `none` in a field but `freqCache` is the spec's value "unset" (R44;
DEDUCED, log entry 5), a read of which raises Fault(UnsetRead); `none` in `freqCache` is the spec's value NONE (R28). -/
structure TransferState where
  msgs      : Option (List Message)
  count     : Option Int
  idx       : Option Int
  nmsg      : Option Int
  written   : Option Int
  read      : Option Int
  restart   : Option Bool
  status    : Option Status
  freqCache : Option Nat
  deriving DecidableEq, Repr

/-- One caller thread (R33): its phase label, the arguments of its call (R170), its locals `result`
and `mst`, and whether a fault has stopped it for good (R40). -/
structure Caller where
  pc      : Phase
  msgs    : List Message
  count   : Int
  result  : Int
  mst     : Bool
  stopped : Bool
  deriving DecidableEq, Repr

/-- The peripheral's operation in flight (R39). -/
inductive Pending where
  | none
  | txByte (b : Byte)
  | rxByte (ack : Bool)
  deriving DecidableEq, Repr

/-- One event of the bus trace (R93). -/
inductive BusEvent where
  | start
  | restart
  | stop
  | sent (b : Byte) (ack : Bool)
  | received (b : Byte) (ack : Bool)
  | arbitrationLost
  deriving DecidableEq, Repr

/-- One entry of the register command trace (R94): `R<-hh` or `R->hh`. -/
inductive RegAccess where
  | write (r : Reg) (v : Byte)
  | read (r : Reg) (v : Byte)
  deriving DecidableEq, Repr

/-- The parameters of R6 that a rule of the state or of an agent depends on: LAYOUT (D1), REG_OFFSETS
(D2), RESTART_MODE (D8), LATE_GUARD (D11), EIO (D17), N_CALLERS (U29), and whether the environment is the
unconstrained one of R234. No rule writes them (DESIGN CHOICE, log entry 8). -/
structure Params where
  layout        : Layout
  regOffsets    : RegOffsets
  restartMode   : RestartMode
  lateGuard     : Bool
  eio           : Nat
  nCallers      : Nat
  unconstrained : Bool
  deriving DecidableEq, Repr

/-- What the last function-like row run on its own returned: the model's own field, not the spec's
(DESIGN CHOICE, log entry 17).
A row that returns nothing leaves it alone, and so does every composite step (R34: the locals of an
invocation are discarded). -/
inductive OpResult where
  | none
  | bool (b : Bool)
  | byte (v : Byte)
  | int (n : Int)
  | message (m : Message)
  | outcome (o : WalkOutcome)
  deriving DecidableEq, Repr

structure State where
  /-- The Transfer State (R23). -/
  ts : TransferState
  /-- The generation of the step in progress (R30). -/
  gen : Nat
  /-- The generation of the last step signalled complete (R30). -/
  doneGen : Nat
  /-- The transfer lock (R31). -/
  locked : Bool
  /-- The watchdog is armed (R32). -/
  wdtArmed : Bool
  /-- The generation passed at arming (R32). -/
  wdtCtx : Nat
  /-- The caller threads by number (R33, R241), numbers rising; an unlisted one is IDLE
and no listed one equals it. -/
  callers : List (Nat × Caller)
  /-- A fault has stopped the interrupt handler for good (R40). -/
  handlerStopped : Bool
  /-- Control register C1 (R35). -/
  c1 : Byte
  /-- Status register S (R36). -/
  status : Byte
  /-- The byte last written to D (R37, R229; DEDUCED, log entry 14). -/
  dTx : Byte
  /-- The receive latch that a read of D returns (R37, R39). -/
  rxLatch : Byte
  /-- Frequency-divider register F (R38). -/
  f : Byte
  /-- Filter register FLT (R38). -/
  flt : Byte
  /-- The operation in flight (R39). -/
  pending : Pending
  /-- The bus trace, oldest first (R39, R93). -/
  bus : List BusEvent
  /-- The register command trace, oldest first (R13, R94). -/
  cmds : List RegAccess
  /-- The return value of each completed transfer call with its caller, oldest first (R13). -/
  returns : List (Nat × Int)
  /-- The fault record (R40). -/
  faults : FaultSet
  /-- The refusal mark (R41). -/
  refused : Bool
  /-- Caller memory (R60): addresses strictly rising, no entry 0. -/
  mem : List Host.Cell
  /-- The parameters of R6; never written (DESIGN CHOICE, log entry 8). -/
  params : Params
  /-- The model's own: the value the last function-like row returned (DESIGN CHOICE, log entry 17). -/
  out : OpResult
  /-- The model's own: the moves to come, soonest first (R11, R236; DESIGN CHOICE, log entry 1). -/
  agenda : List Slot
  /-- The model's own: how many moves were drawn free (`Config.freeMove`; log entry 1). -/
  tick : Nat
  deriving DecidableEq, Repr

/-- What ends the whole machine. The spec's own faults (R40) end one agent and are recorded in
`State.faults` in a next state; they are not these. -/
inductive Fault where
  /-- Raised by `step` for a schedule entry whose word is no word of opcode_table.json (R90: the
  block emits no such value). Safe: the model stops where the block never goes. -/
  | noSuchCommand
  deriving DecidableEq, Repr

/-- What has no meaning in the model. The spec's own refusals (R41) set `State.refused` in a next
state; they are not these. -/
inductive Refusal where
  /-- Answered by `exec` for an instruction that has no meaning yet. Safe: the model stops. -/
  | notModelled (mnemonic : String)
  deriving DecidableEq, Repr

/-- A caller that is in no call. The locals `result` and `mst` have no reset value in the spec
(DESIGN CHOICE, log entry 4). -/
def Caller.atReset : Caller where
  pc := .idle
  msgs := []
  count := 0
  result := 0
  mst := false
  stopped := false

/-- The Transfer State at power-on: every field unset, no frequency cached (R44). -/
def TransferState.unset : TransferState where
  msgs := none
  count := none
  idx := none
  nmsg := none
  written := none
  read := none
  restart := none
  status := none
  freqCache := none

/-- The empty fault record (R44). -/
def FaultSet.empty : FaultSet where
  bufferOverrun := false
  noNextMessage := false
  emptyChain := false
  unsetRead := false

/-- The defaults of R6, and the OPEN N_CALLERS. -/
def Params.default : Params where
  layout := .default
  regOffsets := .default
  restartMode := .perTransition
  lateGuard := true
  eio := 5
  nCallers := Config.nCallers
  unconstrained := false

/-- The machine after reset with the given parameters: R44 with the boot premise of R261 (C1 = `{EN}`,
ARBL = IICIF = 0). S.BUSY is 0 (no other master holds the bus); S.RXAK, D, F and FLT are "any value" in
R44 and hold 0 (DESIGN CHOICE, log entry 4). -/
def State.atPowerOn (params : Params) : State where
  ts := .unset
  gen := 0
  doneGen := 0
  locked := false
  wdtArmed := false
  wdtCtx := 0
  callers := []
  handlerStopped := false
  c1 := cmdIdleByte params.layout
  status := 0x00#8
  dTx := 0x00#8
  rxLatch := 0x00#8
  f := 0x00#8
  flt := 0x00#8
  pending := .none
  bus := []
  cmds := []
  returns := []
  faults := .empty
  refused := false
  mem := []
  params := params
  out := .none
  agenda := []
  tick := 0

/-- The machine after reset, with the default parameters of R6. -/
def State.reset : State := .atPowerOn .default

end Sys2Proof.Machine
end

