-- ==== Sys2Proof/Machine/Ops.lean ====
section
/-! DEFINITION. The named operations over the state: sparse lists, caller memory (R60), caller
threads, the action type of the spec's pseudocode (R10), register accesses with their side effects
(R61, R228 to R231), the completion channel (R166), raising a model fault (R40) and the refusal mark
(R41). -/

namespace Sys2Proof.Machine

/-! ### Sparse lists, keys strictly rising -/

/-- The value at a key, or `d` for a key that is not listed. -/
def cellGet {α : Type} (d : α) (k : Nat) : List (Nat × α) → α
  | [] => d
  | (j, v) :: l => if j = k then v else cellGet d k l

/-- The list with `v` at key `k`, in its place. -/
def cellPut {α : Type} (k : Nat) (v : α) : List (Nat × α) → List (Nat × α)
  | [] => [(k, v)]
  | (j, w) :: l =>
    if k < j then (k, v) :: (j, w) :: l
    else if j = k then (k, v) :: l
    else (j, w) :: cellPut k v l

/-- The list without key `k`. -/
def cellErase {α : Type} (k : Nat) : List (Nat × α) → List (Nat × α)
  | [] => []
  | (j, w) :: l => if j = k then cellErase k l else (j, w) :: cellErase k l

/-- The list with `v` at key `k`, kept free of the default `d`: putting `d` takes the key out. -/
def sparsePut {α : Type} [DecidableEq α] (d : α) (k : Nat) (v : α) (l : List (Nat × α)) :
    List (Nat × α) :=
  if v = d then cellErase k l else cellPut k v l

/-- The keys rise strictly from `lo` on, and every value passes `ok`. -/
def cellsWfFrom {α : Type} (ok : α → Bool) : Nat → List (Nat × α) → Bool
  | _, [] => true
  | lo, (j, v) :: l => decide (lo ≤ j) && ok v && cellsWfFrom ok (j + 1) l

/-! ### Caller memory (R60, R64) -/

/-- What an unlisted byte of caller memory reads as (DESIGN CHOICE, log entry 3). -/
def memDefault : Byte := 0x00#8

/-- MemRead(addr, 1) (R10). -/
def memRead (a : Nat) (m : List Host.Cell) : Byte := cellGet memDefault a m

/-- MemWrite(addr, 1, v) (R10), keeping the canonical form. -/
def memWrite (a : Nat) (v : Byte) (m : List Host.Cell) : List Host.Cell :=
  sparsePut memDefault a v m

/-- The canonical form of memory. -/
def Memory.wf (m : List Host.Cell) : Bool := cellsWfFrom (fun v => v != memDefault) 0 m

/-! ### Caller threads (R33) -/

/-- The record of caller thread `t`; a thread that is not listed is in no call. -/
def State.caller (s : State) (t : Nat) : Caller := cellGet Caller.atReset t s.callers

/-- The state with the record of caller thread `t` changed by `f`. -/
def State.updCaller (s : State) (t : Nat) (f : Caller → Caller) : State :=
  { s with callers := sparsePut Caller.atReset t (f (s.caller t)) s.callers }

/-! ### The pseudocode's actions (R10, R40) -/

/-- A piece of pseudocode: it reads and writes the state, and may raise a model fault; the effects
before the `raise` stand (R40). -/
abbrev Act (α : Type) := EStateM FaultReason State α

/-- `raise Fault(why)` (R10). -/
def raise {α : Type} (why : FaultReason) : Act α := fun s => .error why s

/-- Read a piece of state. -/
def look {α : Type} (f : State → α) : Act α := fun s => .ok (f s) s

/-- Change the state. -/
def change (f : State → State) : Act Unit := fun s => .ok () (f s)

/-- `ts.f` (R10); a read of an unset field raises Fault(UnsetRead) (R44). -/
def need {α : Type} (f : TransferState → Option α) : Act α := fun s =>
  match f s.ts with
  | some x => .ok x s
  | none => .error .unsetRead s

/-- `ts.f <- v` (R10), as a change of the Transfer State. -/
def setTs (f : TransferState → TransferState) : Act Unit := change fun s => { s with ts := f s.ts }

/-- The value that a function-like row returns when it is run on its own (the model's own field). -/
def give (r : OpResult) : Act Unit := change fun s => { s with out := r }

/-! ### Register accesses (R61) -/

/-- The bus event of a write of `v` to C1 over `old` (R228). -/
def busCondition (L : Layout) (old v : Byte) : List BusEvent :=
  if !c1Mst L old && c1Mst L v then [.start]
  else if c1Mst L old && c1Mst L v && c1Rsta L v then [.restart]
  else if c1Mst L old && !c1Mst L v then [.stop]
  else []

/-- S.BUSY after a write of `v` to C1 over `old` (R228): START sets it, STOP clears it. -/
def busyAfter (L : Layout) (old v s : Byte) : Byte :=
  if !c1Mst L old && c1Mst L v then setBitAt s L.busy
  else if c1Mst L old && !c1Mst L v then clearBitAt s L.busy
  else s

/-- The operation in flight after a write of `v` to C1 over `old` (R228): STOP abandons it. -/
def pendingAfter (L : Layout) (old v : Byte) (p : Pending) : Pending :=
  if c1Mst L old && !c1Mst L v then .none else p

/-- RegWrite(C1, v) (R228). -/
def writeC1 (v : Byte) (s : State) : State :=
  { s with
    c1 := v
    bus := s.bus ++ busCondition s.params.layout s.c1 v
    status := busyAfter s.params.layout s.c1 v s.status
    pending := pendingAfter s.params.layout s.c1 v s.pending
    cmds := s.cmds ++ [.write .c1 v] }

/-- RegWrite(S, v) (R61): write 1 to clear. -/
def writeS (v : Byte) (s : State) : State :=
  { s with
    status := clearedStatus s.params.layout s.status v
    cmds := s.cmds ++ [.write .s v] }

/-- RegWrite(D, v) (R229): in master-transmit mode it starts transmission and replaces whatever is
in flight; in any other mode it stores the byte. -/
def writeD (v : Byte) (s : State) : State :=
  { s with
    dTx := v
    pending := if c1Mst s.params.layout s.c1 && c1Tx s.params.layout s.c1 then .txByte v else s.pending
    cmds := s.cmds ++ [.write .d v] }

/-- RegWrite(F, v) (R61). -/
def writeF (v : Byte) (s : State) : State := { s with f := v, cmds := s.cmds ++ [.write .f v] }

/-- RegWrite(FLT, v) (R61). -/
def writeFlt (v : Byte) (s : State) : State := { s with flt := v, cmds := s.cmds ++ [.write .flt v] }

/-- The operation in flight after a read of D (R230, R231): only in master-receive mode does the read
start a reception, with the acknowledgement that C1.TXAK gives at that moment. -/
def pendingAfterReadD (L : Layout) (c1 : Byte) (p : Pending) : Pending :=
  if c1Mst L c1 && !c1Tx L c1 then .rxByte (!c1Txak L c1) else p

/-- A control command of R84: a whole-register write of C1. -/
def command (cmd : Layout → Byte) (s : State) : State := writeC1 (cmd s.params.layout) s

/-- A status-clear command of R85: a write of S. -/
def clearCommand (cmd : Layout → Byte) (s : State) : State := writeS (cmd s.params.layout) s

/-- RegRead(C1): no side effect (R61). -/
def readC1 : Act Byte := fun s => .ok s.c1 { s with cmds := s.cmds ++ [.read .c1 s.c1] }

/-- RegRead(S): no side effect (R61). -/
def readS : Act Byte := fun s => .ok s.status { s with cmds := s.cmds ++ [.read .s s.status] }

/-- RegRead(D): the receive latch (R37), with the side effect of R230. -/
def readD : Act Byte := fun s =>
  .ok s.rxLatch
    { s with
      pending := pendingAfterReadD s.params.layout s.c1 s.pending
      cmds := s.cmds ++ [.read .d s.rxLatch] }

/-! ### The completion channel (R30, R166) -/

/-- Signal() (R166). -/
def signalDone (s : State) : State := { s with doneGen := s.gen }

/-! ### Model faults and refusals (R40, R41) -/

/-- The record with a reason added; a reason is never taken out. -/
def FaultSet.add (fs : FaultSet) : FaultReason → FaultSet
  | .bufferOverrun => { fs with bufferOverrun := true }
  | .noNextMessage => { fs with noNextMessage := true }
  | .emptyChain => { fs with emptyChain := true }
  | .unsetRead => { fs with unsetRead := true }

/-- Whether a reason is in the record. -/
def FaultSet.has (fs : FaultSet) : FaultReason → Bool
  | .bufferOverrun => fs.bufferOverrun
  | .noNextMessage => fs.noNextMessage
  | .emptyChain => fs.emptyChain
  | .unsetRead => fs.unsetRead

/-- Taking a model fault (R40): the reason is recorded and the agent that raised it stops for good;
every effect before the `raise` stands. -/
def takeFault (r : Runner) (why : FaultReason) (s : State) : State :=
  match r with
  | .handler => { s with faults := s.faults.add why, handlerStopped := true }
  | .caller t => ({ s with faults := s.faults.add why }).updCaller t fun c => { c with stopped := true }

/-- `refuse(reason)` (R10, R41): the mark is sticky. -/
def refuse : Act Unit := change fun s => { s with refused := true }

/-- Whether a fault has stopped the agent (R40). -/
def stoppedBy (r : Runner) (s : State) : Bool :=
  match r with
  | .handler => s.handlerStopped
  | .caller t => (s.caller t).stopped

/-- One atomic step of an agent (R11): the action's effects, or those up to the `raise` and the fault
taken. An agent that has stopped has no step (R12, R40; DEDUCED, log entries 6 and 7). -/
def runAct (r : Runner) (a : Act Unit) (s : State) : State :=
  if stoppedBy r s then s
  else
    match a s with
    | .ok _ t => t
    | .error why t => takeFault r why t

/-- One phase of caller thread `t` (R33): it has a step at label `p` only when that is its label
(log entry 6). -/
def coordStep (t : Nat) (p : Phase) (a : Act Unit) (s : State) : State :=
  if (s.caller t).pc = p then runAct (.caller t) a s else s

/-- `pc <- p` for caller thread `t` (R10). -/
def setPc (t : Nat) (p : Phase) : Act Unit := change fun s => s.updCaller t fun c => { c with pc := p }

end Sys2Proof.Machine
end

