-- ==== Sys2Proof/Machine/Operands.lean ====
section
/-! DEFINITION. The operand forms: message descriptors (R65), buffer bytes (R64), the address byte
(R86), the refused forms (R91), packed flag words (R89) and the merge test (R179). -/

namespace Sys2Proof.Machine

/-- Entry `i` of a message array. Beyond the array a caller passed, the entry is a free value
(DESIGN CHOICE, log entry 12). -/
def msgEntry (msgs : List Message) (i : Nat) : Message := msgs.getD i (Config.absentMessage i)

/-- Msg(i) (R65), read afresh at every use. `i < 0 or i >= ts.count` is read from left to right, so for
`i < 0` the count is not read, and an unset count raises no UnsetRead there (DESIGN CHOICE, log entry
13). -/
def msgAt (i : Int) : Act Message :=
  if i < 0 then raise .noNextMessage
  else do
    let count ← need (·.count)
    if i ≥ count then
      raise (if i = 0 then .emptyChain else .noNextMessage)
    else do
      let msgs ← need (·.msgs)
      pure (msgEntry msgs i.toNat)

/-- `Msg(ts.idx)`, the current message (R24). -/
def curMsg : Act Message := do
  let i ← need (·.idx)
  msgAt i

/-- Whether an index lies in the buffer of a message (R64). -/
def inBuffer (m : Message) (i : Int) : Bool := decide (0 ≤ i) && decide (i < m.length)

/-- The caller-memory address of byte `i` of a message's buffer (R64; DESIGN CHOICE, log entry 20: it
does not wrap). -/
def bufAddr (m : Message) (i : Int) : Nat := m.buffer + i.toNat

/-- BufRead(m, i) (R64). -/
def bufRead (m : Message) (i : Int) : Act Byte :=
  if inBuffer m i then look fun s => memRead (bufAddr m i) s.mem else raise .bufferOverrun

/-- BufWrite(m, i, v) (R64). -/
def bufWrite (m : Message) (i : Int) (v : Byte) : Act Unit :=
  if inBuffer m i then change fun s => { s with mem := memWrite (bufAddr m i) v s.mem }
  else raise .bufferOverrun

/-- The address of a register (R68, R80): its offset in REG_OFFSETS from the OPEN base. -/
def regAddress (o : RegOffsets) : Reg → Nat
  | .c1 => Config.i2cBase + o.c1
  | .s => Config.i2cBase + o.s
  | .d => Config.i2cBase + o.d
  | .f => Config.i2cBase + o.f
  | .flt => Config.i2cBase + o.flt

/-- addr_byte(m) (R86). -/
def addrByte (m : Message) : Byte := addrByteOf m.addr m.read

/-- The refused forms of R91. -/
def unsupported (m : Message) : Bool := decide (m.length < 0) || m.otherFlag || m.extended

/-- `messages[0 .. count-1]` (R173). -/
def callChain (msgs : List Message) (count : Int) : List Message :=
  (List.range count.toNat).map (msgEntry msgs)

/-- A message with its flags taken from a packed flag word (R89): each flag at its bit of
MSG_FLAG_BITS, and any other bit a flag outside the three (R91). -/
def withFlagWord (m : Message) (w : Nat) : Message :=
  { m with
    read := w.testBit Config.msgFlagBits.read
    norestart := w.testBit Config.msgFlagBits.norestart
    nostart := w.testBit Config.msgFlagBits.nostart
    otherFlag := (List.range (w.log2 + 1)).any fun b =>
      w.testBit b && b != Config.msgFlagBits.read && b != Config.msgFlagBits.norestart &&
        b != Config.msgFlagBits.nostart }

/-- mergeable(a, b) (R179). -/
def mergeable (a b : Message) : Bool :=
  b.norestart && b.addr == a.addr && b.frequency == a.frequency && b.read == a.read

/-- restart_for(i) (R179): `Msg(i + 1)` is read only when `i + 1 < ts.count`. -/
def restartForAct (i : Int) : Act Bool := do
  let count ← need (·.count)
  if i + 1 < count then do
    let a ← msgAt i
    let b ← msgAt (i + 1)
    pure (!mergeable a b)
  else
    pure true

end Sys2Proof.Machine
end

