-- ==== Sys2Proof/Machine/Acquisition.lean ====
section
/-! DEFINITION. Bus Acquisition (40_bus_acquisition.md R110 to R116): the phases A_TEST to A_ADDR of
the Coordinator, each one atomic step of caller thread `t`. -/

namespace Sys2Proof.Machine

open Host (Outcome)

/-- A_TEST (R111). -/
def aTestAct (t : Nat) : Act Unit := do
  let c ← readC1
  let L ← look (·.params.layout)
  change fun s => s.updCaller t fun r => { r with mst := c1Mst L c }
  setPc t (if c1Mst L c then .aRestart else .aWaitfree)

/-- A_RESTART (R112). -/
def aRestartAct (t : Nat) : Act Unit := do
  change (command cmdRestartByte)
  setPc t .aAddr

/-- A_WAITFREE (R113): one step per poll, with no bound. -/
def aWaitfreeAct (t : Nat) : Act Unit := do
  let st ← readS
  let L ← look (·.params.layout)
  setPc t (if sBusy L st then .aWaitfree else .aStart)

/-- A_START (R114). -/
def aStartAct (t : Nat) : Act Unit := do
  change (command cmdStartByte)
  setPc t .aAddr

/-- A_ADDR (R115). -/
def aAddrAct (t : Nat) : Act Unit := do
  let m ← curMsg
  change (writeD (addrByte m))
  setPc t .tArm

/-- A_TEST (R111). -/
def execATest (t : Nat) (s : State) : Outcome State Fault Refusal :=
  .next (coordStep t .aTest (aTestAct t) s)

/-- A_RESTART (R112). -/
def execARestart (t : Nat) (s : State) : Outcome State Fault Refusal :=
  .next (coordStep t .aRestart (aRestartAct t) s)

/-- A_WAITFREE (R113). -/
def execAWaitfree (t : Nat) (s : State) : Outcome State Fault Refusal :=
  .next (coordStep t .aWaitfree (aWaitfreeAct t) s)

/-- A_START (R114). -/
def execAStart (t : Nat) (s : State) : Outcome State Fault Refusal :=
  .next (coordStep t .aStart (aStartAct t) s)

/-- A_ADDR (R115). -/
def execAAddr (t : Nat) (s : State) : Outcome State Fault Refusal :=
  .next (coordStep t .aAddr (aAddrAct t) s)

/-- The step of Bus Acquisition at a phase label; no step at any other label (R110). -/
def acquireStep (t : Nat) (p : Phase) (s : State) : State :=
  match p with
  | .aTest => coordStep t .aTest (aTestAct t) s
  | .aRestart => coordStep t .aRestart (aRestartAct t) s
  | .aWaitfree => coordStep t .aWaitfree (aWaitfreeAct t) s
  | .aStart => coordStep t .aStart (aStartAct t) s
  | .aAddr => coordStep t .aAddr (aAddrAct t) s
  | .idle | .tLock | .tInit | .tFreq | .tClear | .tLoop | .tStep | .tAcq | .tArm | .tWait
  | .tCancel | .tExit | .tResult | .tUnlock | .done => s

/-- ACQUIRE (R110): the sequence A_TEST to A_ADDR, one phase a step (R11; DEDUCED, log entry 16); thread
`t` takes the phase it is at. -/
def execAcquire (t : Nat) (s : State) : Outcome State Fault Refusal :=
  .next (acquireStep t (s.caller t).pc s)

end Sys2Proof.Machine
end

