-- ==== Sys2Proof/Machine/Walker.lean ====
section
/-! DEFINITION. The Message Chain Walker (42_chain_walker.md R160 to R167): a subroutine of the
interrupt handler, so each row run on its own is run as the handler. -/

namespace Sys2Proof.Machine

open Host (Outcome)

/-- Signal() as an action (R166). -/
def signalAct : Act Unit := change signalDone

/-- STOP() (R165). -/
def stopAct : Act Unit := do
  change (command cmdStopByte)
  signalAct

/-- RESTART RECOMPUTE (R163). -/
def restartRecomputeAct : Act Unit := do
  let mode ← look (·.params.restartMode)
  match mode with
  | .perTransition => do
    let i ← need (·.idx)
    let r ← restartForAct i
    setTs fun ts => { ts with restart := some r }
  | .perStep => pure ()

/-- The cursor advance shared by R161 and R162: the next message, both byte cursors 0. -/
def nextMessageAct : Act Unit := do
  let i ← need (·.idx)
  setTs fun ts => { ts with idx := some (i + 1), written := some 0, read := some 0 }

/-- ADVANCE with signal (R161). -/
def advanceSignalAct : Act WalkOutcome := do
  nextMessageAct
  signalAct
  restartRecomputeAct
  pure .advancedSignalled

/-- ADVANCE without signal (R162). -/
def advanceMergedAct : Act WalkOutcome := do
  nextMessageAct
  restartRecomputeAct
  pure .advancedMerged

/-- TERMINATE (R164): the cursors are not changed. -/
def terminateAct : Act WalkOutcome := do
  stopAct
  pure .terminated

/-- NEXTMSG() (R160). -/
def nextmsgAct : Act WalkOutcome := do
  let n ← need (·.nmsg)
  setTs fun ts => { ts with nmsg := some (n - 1) }
  if n - 1 > 0 then do
    let restart ← need (·.restart)
    if restart then advanceSignalAct else advanceMergedAct
  else
    terminateAct

/-- NEXTMSG (R160). -/
def execNextmsg (s : State) : Outcome State Fault Refusal :=
  .next (runAct .handler (do
    let o ← nextmsgAct
    give (.outcome o)) s)

/-- ADVANCE_SIGNAL (R161). -/
def execAdvanceSignal (s : State) : Outcome State Fault Refusal :=
  .next (runAct .handler (do
    let o ← advanceSignalAct
    give (.outcome o)) s)

/-- ADVANCE_MERGED (R162). -/
def execAdvanceMerged (s : State) : Outcome State Fault Refusal :=
  .next (runAct .handler (do
    let o ← advanceMergedAct
    give (.outcome o)) s)

/-- RESTART_RECOMPUTE (R163). -/
def execRestartRecompute (s : State) : Outcome State Fault Refusal :=
  .next (runAct .handler restartRecomputeAct s)

/-- TERMINATE (R164). -/
def execTerminate (s : State) : Outcome State Fault Refusal :=
  .next (runAct .handler (do
    let o ← terminateAct
    give (.outcome o)) s)

/-- STOP (R165). -/
def execStop (s : State) : Outcome State Fault Refusal := .next (runAct .handler stopAct s)

/-- SIGNAL (R166): the handler and the watchdog both call it; it can raise no fault. -/
def execSignal (s : State) : Outcome State Fault Refusal := .next (signalDone s)

end Sys2Proof.Machine
end

