-- ==== Sys2Proof/Machine/Watchdog.lean ====
section
/-! DEFINITION. The one-shot watchdog and the timeout handler (44_watchdog.md R200 to R206). Time is
not modelled: the deadline decides nothing (R200, R276). -/

namespace Sys2Proof.Machine

open Host (Outcome)

/-- WdtArm(deadline, g) (R201). -/
def armWatchdog (_deadline g : Nat) (s : State) : State := { s with wdtArmed := true, wdtCtx := g }

/-- WdtCancel() (R202): `wdt_ctx` is left as it is. -/
def cancelWatchdog (s : State) : State := { s with wdtArmed := false }

/-- WdtHandler(g) (R204): it acts only on the open step it was armed for. -/
def watchdogHandler (g : Nat) (s : State) : State :=
  if g = s.gen ∧ s.doneGen ≠ s.gen then
    signalDone { s with ts := { s.ts with status := some .timeout } }
  else s

/-- EXPIRE (R203): enabled whenever the watchdog is armed, one-shot, the handler in the same step. -/
def expireWatchdog (s : State) : State :=
  if s.wdtArmed then watchdogHandler s.wdtCtx { s with wdtArmed := false } else s

/-- WDT_ARM (R201). -/
def execWdtArm (deadline g : Nat) (s : State) : Outcome State Fault Refusal :=
  .next (armWatchdog deadline g s)

/-- WDT_CANCEL (R202). -/
def execWdtCancel (s : State) : Outcome State Fault Refusal := .next (cancelWatchdog s)

/-- WDT_EXPIRE (R203). -/
def execWdtExpire (s : State) : Outcome State Fault Refusal := .next (expireWatchdog s)

/-- WDT_HANDLER (R204), called with context `g`. -/
def execWdtHandler (g : Nat) (s : State) : Outcome State Fault Refusal := .next (watchdogHandler g s)

end Sys2Proof.Machine
end

