-- ==== Sys2Proof/Machine/Coordinator.lean ====
section
/-! DEFINITION. The Transfer Coordinator (43_coordinator.md R170 to R190): each labelled phase is one
atomic step of caller thread `t`. -/

namespace Sys2Proof.Machine

open Host (Outcome)

/-! ### Entry and initialisation -/

/-- CALL (R171): from thread context, a thread that is IDLE enters the operation; one that is inside a
call, or that a fault has stopped, cannot call again. The caller threads are those numbered below
N_CALLERS (R6, R241), and no other thread makes a call. A call from interrupt or timer context is refused
in every state (R41, R225, R240): it is made by no caller thread, so neither its number nor the label of
the thread with that number counts, and R171's "a caller at pc = IDLE" is read of thread context alone
(DEDUCED, log entry 11). -/
def callStep (t : Nat) (ctx : Context) (msgs : List Message) (count : Int) (s : State) : State :=
  match ctx with
  | .thread =>
    if (s.caller t).pc = .idle ∧ (s.caller t).stopped = false ∧ t < s.params.nCallers then
      s.updCaller t fun c => { c with pc := .tLock, msgs := msgs, count := count }
    else s
  | .interrupt => { s with refused := true }
  | .timer => { s with refused := true }

/-- T_LOCK (R172): test and set in one step; it holds while the lock is taken. -/
def tLockAct (t : Nat) : Act Unit := do
  let taken ← look (·.locked)
  if taken then pure ()
  else do
    change fun s => { s with locked := true }
    setPc t .tInit

/-- The Transfer State that T_INIT leaves (R173): `restart` and `freq_cache` are kept. -/
def initTs (msgs : List Message) (count : Int) (ts : TransferState) : TransferState :=
  { ts with
    msgs := some msgs
    count := some count
    idx := some 0
    nmsg := some count
    status := some .ok
    written := some 0
    read := some 0 }

/-- T_INIT (R173): the refused forms first, then the empty chain, then the reset of the record. A refused
call stays here with the lock (DEDUCED, log entry 15). -/
def tInitAct (t : Nat) : Act Unit := do
  let c ← look (·.caller t)
  if (callChain c.msgs c.count).any unsupported then refuse
  else if c.count < 1 then raise .emptyChain
  else do
    setTs (initTs c.msgs c.count)
    setPc t .tFreq

/-- SetFrequency(f) (R175): the cache is on the requested value. -/
def setFrequencyAct (hz : Nat) : Act Unit := do
  let cached ← look (·.ts.freqCache)
  if cached = some hz then pure ()
  else do
    change (writeF (Config.freqTable hz).1)
    change (writeFlt (Config.freqTable hz).2)
    setTs fun ts => { ts with freqCache := some hz }

/-- T_FREQ (R174, R187): the frequency of message 0. -/
def tFreqAct (t : Nat) : Act Unit := do
  let m ← msgAt 0
  setFrequencyAct m.frequency
  setPc t .tClear

/-- T_CLEAR (R176). -/
def tClearAct (t : Nat) : Act Unit := do
  change (clearCommand clrAllByte)
  setPc t .tLoop

/-! ### The step loop -/

/-- `ts.nmsg > 0 and ts.status = OK` (R177). -/
def loopGoesOn : Act Bool := do
  let n ← need (·.nmsg)
  if n > 0 then do
    let st ← need (·.status)
    pure (st == .ok)
  else pure false

/-- T_LOOP (R177). -/
def tLoopAct (t : Nat) : Act Unit := do
  let more ← loopGoesOn
  setPc t (if more then .tStep else .tExit)

/-- T_STEP (R178): a new generation, and the restart flag of the step's first message. -/
def tStepAct (t : Nat) : Act Unit := do
  change fun s => { s with gen := s.gen + 1 }
  let i ← need (·.idx)
  let r ← restartForAct i
  setTs fun ts => { ts with restart := some r }
  setPc t .tAcq

/-- T_ACQ (R180). -/
def tAcqAct (t : Nat) : Act Unit := do
  let m ← curMsg
  setPc t (if m.nostart then .tArm else .aTest)

/-- T_ARM (R181). -/
def tArmAct (t : Nat) : Act Unit := do
  change fun s => armWatchdog Config.wdtTimeout s.gen s
  setPc t .tWait

/-- T_WAIT (R182): it holds until the step is complete. -/
def tWaitAct (t : Nat) : Act Unit := do
  let complete ← look fun s => decide (s.doneGen = s.gen)
  if complete then setPc t .tCancel else pure ()

/-- T_CANCEL (R183). -/
def tCancelAct (t : Nat) : Act Unit := do
  change cancelWatchdog
  setPc t .tLoop

/-! ### Exit -/

/-- T_EXIT (R184). -/
def tExitAct (t : Nat) : Act Unit := do
  change (command cmdIdleByte)
  setPc t .tResult

/-- The public result (R185, R190). -/
def publicResult (st : Status) (eio : Nat) : Int := if st = .ok then 0 else -(eio : Int)

/-- T_RESULT (R185): latched while the lock is held. -/
def tResultAct (t : Nat) : Act Unit := do
  let st ← need (·.status)
  let eio ← look (·.params.eio)
  change fun s => s.updCaller t fun c => { c with result := publicResult st eio }
  setPc t .tUnlock

/-- T_UNLOCK (R186): release, return to IDLE, and the call's return value is observed (R13). -/
def tUnlockAct (t : Nat) : Act Unit := do
  change fun s => { s with locked := false, returns := s.returns ++ [(t, (s.caller t).result)] }
  setPc t .idle

/-! ### The rows -/

/-- CALL (R171). -/
def execCall (t : Nat) (ctx : Context) (msgs : List Message) (count : Int) (s : State) :
    Outcome State Fault Refusal :=
  .next (callStep t ctx msgs count s)

/-- T_LOCK (R172). -/
def execTLock (t : Nat) (s : State) : Outcome State Fault Refusal :=
  .next (coordStep t .tLock (tLockAct t) s)

/-- T_INIT (R173). -/
def execTInit (t : Nat) (s : State) : Outcome State Fault Refusal :=
  .next (coordStep t .tInit (tInitAct t) s)

/-- T_FREQ (R174). -/
def execTFreq (t : Nat) (s : State) : Outcome State Fault Refusal :=
  .next (coordStep t .tFreq (tFreqAct t) s)

/-- SET_FREQUENCY (R175): the collaborator raises no fault, so it needs no agent. -/
def execSetFrequency (hz : Nat) (s : State) : Outcome State Fault Refusal :=
  match setFrequencyAct hz s with
  | .ok _ t => .next t
  | .error _ t => .next t

/-- T_CLEAR (R176). -/
def execTClear (t : Nat) (s : State) : Outcome State Fault Refusal :=
  .next (coordStep t .tClear (tClearAct t) s)

/-- T_LOOP (R177). -/
def execTLoop (t : Nat) (s : State) : Outcome State Fault Refusal :=
  .next (coordStep t .tLoop (tLoopAct t) s)

/-- T_STEP (R178). -/
def execTStep (t : Nat) (s : State) : Outcome State Fault Refusal :=
  .next (coordStep t .tStep (tStepAct t) s)

/-- RESTART_FOR (R179), run by agent `r`: it writes nothing, and `out` shows its value. -/
def execRestartFor (r : Runner) (i : Int) (s : State) : Outcome State Fault Refusal :=
  .next (runAct r (do
    let b ← restartForAct i
    give (.bool b)) s)

/-- T_ACQ (R180). -/
def execTAcq (t : Nat) (s : State) : Outcome State Fault Refusal :=
  .next (coordStep t .tAcq (tAcqAct t) s)

/-- T_ARM (R181). -/
def execTArm (t : Nat) (s : State) : Outcome State Fault Refusal :=
  .next (coordStep t .tArm (tArmAct t) s)

/-- T_WAIT (R182). -/
def execTWait (t : Nat) (s : State) : Outcome State Fault Refusal :=
  .next (coordStep t .tWait (tWaitAct t) s)

/-- T_CANCEL (R183). -/
def execTCancel (t : Nat) (s : State) : Outcome State Fault Refusal :=
  .next (coordStep t .tCancel (tCancelAct t) s)

/-- T_EXIT (R184). -/
def execTExit (t : Nat) (s : State) : Outcome State Fault Refusal :=
  .next (coordStep t .tExit (tExitAct t) s)

/-- T_RESULT (R185). -/
def execTResult (t : Nat) (s : State) : Outcome State Fault Refusal :=
  .next (coordStep t .tResult (tResultAct t) s)

/-- T_UNLOCK (R186). -/
def execTUnlock (t : Nat) (s : State) : Outcome State Fault Refusal :=
  .next (coordStep t .tUnlock (tUnlockAct t) s)

/-- The step of a transfer in progress at a phase label (R170); an IDLE thread is in no call. -/
def transferPhase (t : Nat) (p : Phase) (s : State) : State :=
  match p with
  | .tLock => coordStep t .tLock (tLockAct t) s
  | .tInit => coordStep t .tInit (tInitAct t) s
  | .tFreq => coordStep t .tFreq (tFreqAct t) s
  | .tClear => coordStep t .tClear (tClearAct t) s
  | .tLoop => coordStep t .tLoop (tLoopAct t) s
  | .tStep => coordStep t .tStep (tStepAct t) s
  | .tAcq => coordStep t .tAcq (tAcqAct t) s
  | .aTest => acquireStep t .aTest s
  | .aRestart => acquireStep t .aRestart s
  | .aWaitfree => acquireStep t .aWaitfree s
  | .aStart => acquireStep t .aStart s
  | .aAddr => acquireStep t .aAddr s
  | .tArm => coordStep t .tArm (tArmAct t) s
  | .tWait => coordStep t .tWait (tWaitAct t) s
  | .tCancel => coordStep t .tCancel (tCancelAct t) s
  | .tExit => coordStep t .tExit (tExitAct t) s
  | .tResult => coordStep t .tResult (tResultAct t) s
  | .tUnlock => coordStep t .tUnlock (tUnlockAct t) s
  | .idle | .done => s

/-- TRANSFER (R170): the blocking operation, run as R11 has it, one phase a step (DEDUCED, log entry
16). A thread that is IDLE enters the call from thread context; a thread inside a call takes the phase
it is at, until T_UNLOCK returns the result. -/
def execTransfer (t : Nat) (msgs : List Message) (count : Int) (s : State) :
    Outcome State Fault Refusal :=
  if (s.caller t).pc = .idle then .next (callStep t .thread msgs count s)
  else .next (transferPhase t (s.caller t).pc s)

/-- RESET (R188): it returns 0 and touches nothing of the block; `out` shows the value (log entry 17). -/
def execReset (s : State) : Outcome State Fault Refusal := .next { s with out := .int 0 }

end Sys2Proof.Machine
end

