-- ==== Sys2Proof/Machine/RegCommands.lean ====
section
/-! DEFINITION. The register commands (30_encoding.md R84 to R87): each is one 8-bit register access
with the side effects of R61. -/

namespace Sys2Proof.Machine

open Host (Outcome)

/-- CMD_START (R84, R114): START when C1.MST was 0. -/
def execCmdStart (s : State) : Outcome State Fault Refusal := .next (command cmdStartByte s)

/-- CMD_RESTART (R84, R112): repeated-START when C1.MST was 1. -/
def execCmdRestart (s : State) : Outcome State Fault Refusal := .next (command cmdRestartByte s)

/-- CMD_RX_ACK (R84, R139). -/
def execCmdRxAck (s : State) : Outcome State Fault Refusal := .next (command cmdRxAckByte s)

/-- CMD_RX_NOACK (R84, R138). -/
def execCmdRxNoack (s : State) : Outcome State Fault Refusal := .next (command cmdRxNoackByte s)

/-- CMD_TX (R84, R141): no bus event when C1.MST was 1. -/
def execCmdTx (s : State) : Outcome State Fault Refusal := .next (command cmdTxByte s)

/-- CMD_STOP (R84, R165): STOP when C1.MST was 1. -/
def execCmdStop (s : State) : Outcome State Fault Refusal := .next (command cmdStopByte s)

/-- CMD_IDLE (R84, R184). -/
def execCmdIdle (s : State) : Outcome State Fault Refusal := .next (command cmdIdleByte s)

/-- CLR_ALL (R85). -/
def execClrAll (s : State) : Outcome State Fault Refusal := .next (clearCommand clrAllByte s)

/-- CLR_IF (R85). -/
def execClrIf (s : State) : Outcome State Fault Refusal := .next (clearCommand clrIfByte s)

/-- ADDR_W (R86): the address byte with direction bit 0. -/
def execAddrW (a : Addr7) (s : State) : Outcome State Fault Refusal :=
  .next (writeD (addrByteOf a false) s)

/-- ADDR_R (R86): the address byte with direction bit 1. -/
def execAddrR (a : Addr7) (s : State) : Outcome State Fault Refusal :=
  .next (writeD (addrByteOf a true) s)

/-- DATA_W (R87): the buffer byte goes to D unchanged. -/
def execDataW (d : Byte) (s : State) : Outcome State Fault Refusal := .next (writeD d s)

/-- DATA_R on message `m` (R87): read D and store the value unchanged with BufWrite at `ts.read`, as
R144, R145 and R146 do; the cursor is theirs (log entry 17). -/
def dataRead (m : Message) : Act Byte := do
  let b ← readD
  let i ← need (·.read)
  bufWrite m i b
  pure b

/-- DATA_R (R87) on the current message, by the interrupt handler. -/
def execDataR (s : State) : Outcome State Fault Refusal :=
  .next (runAct .handler (do
    let m ← curMsg
    let b ← dataRead m
    give (.byte b)) s)

/-- DUMMY_R (R87): read D and discard the value in the block; the trace and `out` show it. -/
def execDummyR (s : State) : Outcome State Fault Refusal :=
  .next (runAct .handler (do
    let b ← readD
    give (.byte b)) s)

/-- FREQ_F (R175). -/
def execFreqF (f : Byte) (s : State) : Outcome State Fault Refusal := .next (writeF f s)

/-- FREQ_FLT (R175). -/
def execFreqFlt (g : Byte) (s : State) : Outcome State Fault Refusal := .next (writeFlt g s)

/-- The result of a register read that no agent of R40 makes: it raises no fault. -/
def runRead (a : Act Byte) (s : State) : State :=
  match a s with
  | .ok b t => { t with out := .byte b }
  | .error _ t => t

/-- RD_S (R130, R113): the status snapshot. -/
def execRdS (s : State) : Outcome State Fault Refusal := .next (runRead readS s)

/-- RD_C1 (R133, R111): the control snapshot. -/
def execRdC1 (s : State) : Outcome State Fault Refusal := .next (runRead readC1 s)

end Sys2Proof.Machine
end

