-- ==== Sys2Proof/Machine/Handler.lean ====
section
/-! DEFINITION. The Protocol State Machine (41_protocol_sm.md R130 to R148): the body of every
branch, the two mode branches, the entry, and the rows of the dispatch table (R88). -/

namespace Sys2Proof.Machine

open Host (Outcome)

/-! ### The branch bodies -/

/-- GUARD (R131): no Transfer State change, no Signal. -/
def guardBody : Act Unit := do
  change (clearCommand clrAllByte)
  change (command cmdStopByte)

/-- ARBL (R132). -/
def arblBody : Act Unit := do
  change (clearCommand clrAllByte)
  setTs fun ts => { ts with status := some .arbitrationLost }
  stopAct

/-- TX_NAK (R134). -/
def txNakBody : Act Unit := do
  setTs fun ts => { ts with status := some .nak }
  stopAct

/-- TX_WR_BYTE (R135): push the next byte. -/
def txWrByteBody (m : Message) : Act Unit := do
  let w ← need (·.written)
  let b ← bufRead m w
  change (writeD b)
  setTs fun ts => { ts with written := some (w + 1) }

/-- TX_WR_MERGE (R137): the first byte of the new message, with no address cycle. -/
def txWrMergeBody : Act Unit := do
  let m2 ← curMsg
  let b ← bufRead m2 0
  change (writeD b)
  setTs fun ts => { ts with written := some 1 }

/-- TX_WR_DONE (R136); only the merged outcome pushes a byte (R167). -/
def txWrDoneBody : Act Unit := do
  let o ← nextmsgAct
  if o = .advancedMerged then txWrMergeBody else pure ()

/-- TX_RD_NOACK (R138): receive mode without acknowledgement, then the dummy read. -/
def txRdNoackBody : Act Unit := do
  change (command cmdRxNoackByte)
  let _ ← readD

/-- TX_RD_ACK (R139): receive mode with acknowledgement, then the dummy read. -/
def txRdAckBody : Act Unit := do
  change (command cmdRxAckByte)
  let _ ← readD

/-- `b <- RegRead(D); BufWrite(m, ts.read, b); ts.read <- ts.read + 1` (R144, R145, R146). -/
def consumeByte (m : Message) : Act Unit := do
  let _ ← dataRead m
  let i ← need (·.read)
  setTs fun ts => { ts with read := some (i + 1) }

/-- RX_LAST tail (R144): consume the last byte and walk; the outcome is not used. -/
def rxLastTailBody (m : Message) : Act Unit := do
  consumeByte m
  let _ ← nextmsgAct

/-- RX_LAST_RESTART (R141): back to transmit mode before the last read. -/
def rxLastRestartBody (m : Message) : Act Unit := do
  change (command cmdTxByte)
  rxLastTailBody m

/-- RX_LAST_MERGE1 (R142): the byte that this read triggers must not be acknowledged, be it the last of
its group or not (DESIGN CHOICE against the last sentence of R147, log entry 22). -/
def rxLastMerge1Body (m : Message) : Act Unit := do
  change (command cmdRxNoackByte)
  rxLastTailBody m

/-- RX_LAST_MERGE (R143): no control write. -/
def rxLastMergeBody (m : Message) : Act Unit := rxLastTailBody m

/-- RX_PENULT_RESTART (R145): suppress the acknowledgement of the byte after this one. -/
def rxPenultRestartBody (m : Message) : Act Unit := do
  change (command cmdRxNoackByte)
  consumeByte m

/-- RX_BYTE (R146). -/
def rxByteBody (m : Message) : Act Unit := consumeByte m

/-! ### The handler (R130, R133, R140) -/

/-- `ts.nmsg = 0 or ts.status != OK`: the record is closed (R29), read from left to right (DESIGN CHOICE,
log entry 13). -/
def recordClosed : Act Bool := do
  let n ← need (·.nmsg)
  if n = 0 then pure true
  else do
    let st ← need (·.status)
    pure (st != .ok)

/-- The guard's condition (R131). -/
def guardHolds : Act Bool := do
  let guarded ← look (·.params.lateGuard)
  if guarded then recordClosed else pure false

/-- The transmit-mode branch (R134 to R139), with the status snapshot. -/
def txBranch (L : Layout) (st : Byte) (m : Message) : Act Unit :=
  if sRxak L st then txNakBody
  else if m.read = false then do
    let w ← need (·.written)
    if w = m.length then txWrDoneBody else txWrByteBody m
  else if m.length = 1 then do
    let restart ← need (·.restart)
    if restart then txRdNoackBody else txRdAckBody
  else
    txRdAckBody

/-- The receive-mode branch (R140): the last-byte test first, the second-to-last test only if the
first fails. Where a merged read of length 1 is not the last of its group, R142 and R143 do not
acknowledge its byte and the last sentence of R147 says it is acknowledged: R142 and R143 are followed
(DESIGN CHOICE, log entry 22). -/
def rxBranch (m : Message) : Act Unit := do
  let i ← need (·.read)
  if i = m.length - 1 then do
    let restart ← need (·.restart)
    if restart then rxLastRestartBody m
    else do
      let k ← need (·.idx)
      let n ← msgAt (k + 1)
      if n.length = 1 then rxLastMerge1Body m else rxLastMergeBody m
  else if i = m.length - 2 then do
    let restart ← need (·.restart)
    if restart then rxPenultRestartBody m else rxByteBody m
  else
    rxByteBody m

/-- CLEAR AND MODE READ (R133), then the branch of the mode that C1 shows. -/
def clearMode (st : Byte) : Act Unit := do
  change (clearCommand clrIfByte)
  let c ← readC1
  let m ← curMsg
  let L ← look (·.params.layout)
  if c1Tx L c then txBranch L st m else rxBranch m

/-- ENTRY (R130): the status register is read once; every later test uses the snapshot. -/
def isr : Act Unit := do
  let st ← readS
  let closed ← guardHolds
  let L ← look (·.params.layout)
  if closed then guardBody
  else if sArbl L st then arblBody
  else clearMode st

/-! ### The dispatch rows (R88) -/

/-- The state half of a row's condition (R88); `m` is the current message. -/
def branchCond (b : Branch) (m : Message) : Act Bool :=
  match b with
  | .guard => guardHolds
  | .arbl => pure true
  | .txNak => pure true
  | .txWrByte =>
    if m.read = false then do
      let w ← need (·.written)
      pure (decide (w ≠ m.length))
    else pure false
  | .txWrDone =>
    if m.read = false then do
      let w ← need (·.written)
      pure (decide (w = m.length))
    else pure false
  | .txWrMerge => pure true
  | .txRdNoack =>
    if m.read = true ∧ m.length = 1 then need (·.restart) else pure false
  | .txRdAck =>
    if m.read = true then
      if m.length = 1 then do
        let restart ← need (·.restart)
        pure (!restart)
      else pure true
    else pure false
  | .rxLastRestart => do
    let i ← need (·.read)
    if i = m.length - 1 then need (·.restart) else pure false
  | .rxLastMerge1 => do
    let i ← need (·.read)
    if i = m.length - 1 then do
      let restart ← need (·.restart)
      if restart then pure false
      else do
        let k ← need (·.idx)
        let n ← msgAt (k + 1)
        pure (decide (n.length = 1))
    else pure false
  | .rxLastMerge => do
    let i ← need (·.read)
    if i = m.length - 1 then do
      let restart ← need (·.restart)
      if restart then pure false
      else do
        let k ← need (·.idx)
        let n ← msgAt (k + 1)
        pure (decide (n.length ≠ 1))
    else pure false
  | .rxPenultRestart => do
    let i ← need (·.read)
    if i = m.length - 2 then need (·.restart) else pure false
  | .rxByte => do
    let i ← need (·.read)
    if i = m.length - 1 then pure false
    else if i = m.length - 2 then do
      let restart ← need (·.restart)
      pure (!restart)
    else pure true

/-- The body of a row; `m` is the current message. -/
def branchBody (b : Branch) (m : Message) : Act Unit :=
  match b with
  | .guard => guardBody
  | .arbl => arblBody
  | .txNak => txNakBody
  | .txWrByte => txWrByteBody m
  | .txWrDone => txWrDoneBody
  | .txWrMerge => txWrMergeBody
  | .txRdNoack => txRdNoackBody
  | .txRdAck => txRdAckBody
  | .rxLastRestart => rxLastRestartBody m
  | .rxLastMerge1 => rxLastMerge1Body m
  | .rxLastMerge => rxLastMergeBody m
  | .rxPenultRestart => rxPenultRestartBody m
  | .rxByte => rxByteBody m

/-- The rows of R88 in their order, after the guard and the arbitration row, which are tested before
the control snapshot is read. -/
def dispatchOrder : List Branch :=
  [.txNak, .txWrByte, .txWrDone, .txRdNoack, .txRdAck, .rxLastRestart, .rxLastMerge1, .rxLastMerge,
    .rxPenultRestart, .rxByte]

/-- The reading of R88 as a table: the first row whose condition holds is taken. -/
def firstBranch (L : Layout) (v : Vec16) (m : Message) : List Branch → Act Unit
  | [] => pure ()
  | b :: bs =>
    if branchMatches L b v then do
      let taken ← branchCond b m
      if taken then branchBody b m else firstBranch L v m bs
    else firstBranch L v m bs

/-- A row that reads the current message: its body when both halves of its condition hold (DESIGN
CHOICE, log entry 17). -/
def branchAct (L : Layout) (b : Branch) (v : Vec16) : Act Unit :=
  if branchMatches L b v then do
    let m ← curMsg
    let taken ← branchCond b m
    if taken then branchBody b m else pure ()
  else pure ()

/-- ISR_GUARD (R131): it reads no message. -/
def execIsrGuard (v : Vec16) (s : State) : Outcome State Fault Refusal :=
  .next (runAct .handler
    (if branchMatches s.params.layout .guard v then do
      let closed ← guardHolds
      if closed then guardBody else pure ()
    else pure ()) s)

/-- ISR_ARBL (R132): it reads no message. -/
def execIsrArbl (v : Vec16) (s : State) : Outcome State Fault Refusal :=
  .next (runAct .handler (if branchMatches s.params.layout .arbl v then arblBody else pure ()) s)

/-- ISR_TX_NAK (R134): the body reads no message. -/
def execIsrTxNak (v : Vec16) (s : State) : Outcome State Fault Refusal :=
  .next (runAct .handler (if branchMatches s.params.layout .txNak v then txNakBody else pure ()) s)

/-- ISR_TX_WR_BYTE (R135). -/
def execIsrTxWrByte (v : Vec16) (s : State) : Outcome State Fault Refusal :=
  .next (runAct .handler (branchAct s.params.layout .txWrByte v) s)

/-- ISR_TX_WR_DONE (R136). -/
def execIsrTxWrDone (v : Vec16) (s : State) : Outcome State Fault Refusal :=
  .next (runAct .handler (branchAct s.params.layout .txWrDone v) s)

/-- ISR_TX_WR_MERGE (R137): the row inside R136, for the message the walker has just made current. -/
def execIsrTxWrMerge (v : Vec16) (s : State) : Outcome State Fault Refusal :=
  .next (runAct .handler
    (if branchMatches s.params.layout .txWrMerge v then txWrMergeBody else pure ()) s)

/-- ISR_TX_RD_NOACK (R138). -/
def execIsrTxRdNoack (v : Vec16) (s : State) : Outcome State Fault Refusal :=
  .next (runAct .handler (branchAct s.params.layout .txRdNoack v) s)

/-- ISR_TX_RD_ACK (R139). -/
def execIsrTxRdAck (v : Vec16) (s : State) : Outcome State Fault Refusal :=
  .next (runAct .handler (branchAct s.params.layout .txRdAck v) s)

/-- ISR_RX_LAST_RESTART (R141). -/
def execIsrRxLastRestart (v : Vec16) (s : State) : Outcome State Fault Refusal :=
  .next (runAct .handler (branchAct s.params.layout .rxLastRestart v) s)

/-- ISR_RX_LAST_MERGE1 (R142). -/
def execIsrRxLastMerge1 (v : Vec16) (s : State) : Outcome State Fault Refusal :=
  .next (runAct .handler (branchAct s.params.layout .rxLastMerge1 v) s)

/-- ISR_RX_LAST_MERGE (R143). -/
def execIsrRxLastMerge (v : Vec16) (s : State) : Outcome State Fault Refusal :=
  .next (runAct .handler (branchAct s.params.layout .rxLastMerge v) s)

/-- ISR_RX_PENULT_RESTART (R145). -/
def execIsrRxPenultRestart (v : Vec16) (s : State) : Outcome State Fault Refusal :=
  .next (runAct .handler (branchAct s.params.layout .rxPenultRestart v) s)

/-- ISR_RX_BYTE (R146). -/
def execIsrRxByte (v : Vec16) (s : State) : Outcome State Fault Refusal :=
  .next (runAct .handler (branchAct s.params.layout .rxByte v) s)

/-- ISR_ENTRY (R130): the whole invocation, once it has been selected (DESIGN CHOICE, log entry 17). -/
def execIsrEntry (s : State) : Outcome State Fault Refusal := .next (runAct .handler isr s)

/-- ISR_CLEAR_MODE (R133), for the status snapshot `st`. -/
def execIsrClearMode (st : Byte) (s : State) : Outcome State Fault Refusal :=
  .next (runAct .handler (clearMode st) s)

/-- ISR_RX_DISPATCH (R140), for the current message. -/
def execIsrRxDispatch (s : State) : Outcome State Fault Refusal :=
  .next (runAct .handler (do
    let m ← curMsg
    rxBranch m) s)

/-- ISR_RX_LAST_TAIL (R144), for the current message. -/
def execIsrRxLastTail (s : State) : Outcome State Fault Refusal :=
  .next (runAct .handler (do
    let m ← curMsg
    rxLastTailBody m) s)

end Sys2Proof.Machine
end

