-- ==== Sys2Proof/Machine/Environment.lean ====
section
/-! DEFINITION. Interrupt delivery (60_exceptions.md R226, R227, R237, R238) and the environment
contract (R228 to R234): what the peripheral, the bus, the targets and the other masters do. -/

namespace Sys2Proof.Machine

open Host (Outcome)

/-- IRQ_DELIVER (R227): the handler step, enabled exactly while the interrupt is pending. Entry saves
nothing and changes no mode (R237), and the return restores nothing (R238). -/
def execIrqDeliver (s : State) : Outcome State Fault Refusal :=
  if irqPending s.params.layout s.c1 s.status then .next (runAct .handler isr s) else .next s

/-- ENV_BUS_CONDITION (R228): a write of `v` to C1 with its bus condition. -/
def execEnvBusCondition (v : Byte) (s : State) : Outcome State Fault Refusal := .next (writeC1 v s)

/-- Arbitration lost by the byte in flight (R229, R230): MST is cleared by the environment. -/
def loseArbitration (s : State) : State :=
  { s with
    bus := s.bus ++ [.arbitrationLost]
    status := setBitAt (setBitAt s.status s.params.layout.arbl) s.params.layout.iicif
    c1 := clearBitAt s.c1 s.params.layout.mst
    pending := .none }

/-- TX_COMPLETE (R229), enabled while a byte is being shifted out. -/
def txComplete (o : TxOutcome) (s : State) : State :=
  match s.pending with
  | .txByte b =>
    match o with
    | .ack =>
      { s with
        bus := s.bus ++ [.sent b true]
        status := setBitAt (clearBitAt s.status s.params.layout.rxak) s.params.layout.iicif
        pending := .none }
    | .nak =>
      { s with
        bus := s.bus ++ [.sent b false]
        status := setBitAt (setBitAt s.status s.params.layout.rxak) s.params.layout.iicif
        pending := .none }
    | .lost => loseArbitration s
  | .rxByte _ => s
  | .none => s

/-- RX_COMPLETE and RX_LOST (R230), enabled while a byte is being received. -/
def rxComplete (o : RxOutcome) (s : State) : State :=
  match s.pending with
  | .rxByte ack =>
    match o with
    | .byte v =>
      { s with
        rxLatch := v
        bus := s.bus ++ [.received v ack]
        status := setBitAt s.status s.params.layout.iicif
        pending := .none }
    | .lost => loseArbitration s
  | .txByte _ => s
  | .none => s

/-- Another master takes or releases the bus, while the block is not master (R232). -/
def otherMaster (busy : Bool) (s : State) : State :=
  if c1Mst s.params.layout s.c1 then s
  else { s with status := putBitAt s.status s.params.layout.busy busy }

/-- ENV_TX_COMPLETE (R229). -/
def execEnvTxComplete (o : TxOutcome) (s : State) : Outcome State Fault Refusal :=
  .next (txComplete o s)

/-- ENV_RX_COMPLETE (R230). -/
def execEnvRxComplete (o : RxOutcome) (s : State) : Outcome State Fault Refusal :=
  .next (rxComplete o s)

/-- ENV_D_READ_TX (R231): a D read outside master-receive mode returns the latch and has no other
effect. In master-receive mode the read is that of R230, not this row. -/
def execEnvDReadTx (s : State) : Outcome State Fault Refusal :=
  if c1Tx s.params.layout s.c1 || !c1Mst s.params.layout s.c1 then .next (runRead readD s) else .next s

/-- ENV_OTHER_MASTER (R232). -/
def execEnvOtherMaster (busy : Bool) (s : State) : Outcome State Fault Refusal :=
  .next (otherMaster busy s)

/-- The move of the unconstrained environment (R234, R111): it sets flags of S and may clear C1.MST
at any step. It exists only where the parameter chooses that environment (DEDUCED, log entry 19). -/
def strayFlags (iicif arbl rxak clearMst : Bool) (s : State) : State :=
  if s.params.unconstrained then
    let s1 := if iicif then setBitAt s.status s.params.layout.iicif else s.status
    let s2 := if arbl then setBitAt s1 s.params.layout.arbl else s1
    let s3 := if rxak then setBitAt s2 s.params.layout.rxak else s2
    { s with
      status := s3
      c1 := if clearMst then clearBitAt s.c1 s.params.layout.mst else s.c1 }
  else s

end Sys2Proof.Machine
end

