-- ==== Sys2Proof/Machine/Primitives.lean ====
section
/-! DEFINITION. The caller-memory primitives as rows of their own (20_memory.md R64, R65), run by the
agent that asks. -/

namespace Sys2Proof.Machine

open Host (Outcome)

/-- BufRead or BufWrite (R64). -/
def bufAct (m : Message) (i : Int) (op : BufOp) : Act Unit :=
  match op with
  | .read => do
    let b ← bufRead m i
    give (.byte b)
  | .write v => bufWrite m i v

/-- BUF_READ_WRITE (R64). -/
def execBufReadWrite (r : Runner) (m : Message) (i : Int) (op : BufOp) (s : State) :
    Outcome State Fault Refusal :=
  .next (runAct r (bufAct m i op) s)

/-- MSG (R65). -/
def execMsg (r : Runner) (i : Int) (s : State) : Outcome State Fault Refusal :=
  .next (runAct r (do
    let m ← msgAt i
    give (.message m)) s)

end Sys2Proof.Machine
end

