-- ==== Sys2Proof/Machine/Dispatch.lean ====
section
/-! DEFINITION. One arm per row of opcode_table.json. -/

namespace Sys2Proof.Machine

def exec (i : Instr) (s : State) : Host.Outcome State Fault Refusal :=
  match i with
  | .cmdStart => Sys2Proof.Machine.execCmdStart s
  | .cmdRestart => Sys2Proof.Machine.execCmdRestart s
  | .cmdRxAck => Sys2Proof.Machine.execCmdRxAck s
  | .cmdRxNoack => Sys2Proof.Machine.execCmdRxNoack s
  | .cmdTx => Sys2Proof.Machine.execCmdTx s
  | .cmdStop => Sys2Proof.Machine.execCmdStop s
  | .cmdIdle => Sys2Proof.Machine.execCmdIdle s
  | .clrAll => Sys2Proof.Machine.execClrAll s
  | .clrIf => Sys2Proof.Machine.execClrIf s
  | .addrW a => Sys2Proof.Machine.execAddrW a s
  | .addrR a => Sys2Proof.Machine.execAddrR a s
  | .dataW d => Sys2Proof.Machine.execDataW d s
  | .dataR => Sys2Proof.Machine.execDataR s
  | .dummyR => Sys2Proof.Machine.execDummyR s
  | .freqF f => Sys2Proof.Machine.execFreqF f s
  | .freqFlt g => Sys2Proof.Machine.execFreqFlt g s
  | .rdS => Sys2Proof.Machine.execRdS s
  | .rdC1 => Sys2Proof.Machine.execRdC1 s
  | .isrGuard v => Sys2Proof.Machine.execIsrGuard v s
  | .isrArbl v => Sys2Proof.Machine.execIsrArbl v s
  | .isrTxNak v => Sys2Proof.Machine.execIsrTxNak v s
  | .isrTxWrByte v => Sys2Proof.Machine.execIsrTxWrByte v s
  | .isrTxWrDone v => Sys2Proof.Machine.execIsrTxWrDone v s
  | .isrTxWrMerge v => Sys2Proof.Machine.execIsrTxWrMerge v s
  | .isrTxRdNoack v => Sys2Proof.Machine.execIsrTxRdNoack v s
  | .isrTxRdAck v => Sys2Proof.Machine.execIsrTxRdAck v s
  | .isrRxLastRestart v => Sys2Proof.Machine.execIsrRxLastRestart v s
  | .isrRxLastMerge1 v => Sys2Proof.Machine.execIsrRxLastMerge1 v s
  | .isrRxLastMerge v => Sys2Proof.Machine.execIsrRxLastMerge v s
  | .isrRxPenultRestart v => Sys2Proof.Machine.execIsrRxPenultRestart v s
  | .isrRxByte v => Sys2Proof.Machine.execIsrRxByte v s
  | .isrEntry => Sys2Proof.Machine.execIsrEntry s
  | .isrClearMode st => Sys2Proof.Machine.execIsrClearMode st s
  | .isrRxDispatch => Sys2Proof.Machine.execIsrRxDispatch s
  | .isrRxLastTail => Sys2Proof.Machine.execIsrRxLastTail s
  | .transfer t msgs count => Sys2Proof.Machine.execTransfer t msgs count s
  | .call t ctx msgs count => Sys2Proof.Machine.execCall t ctx msgs count s
  | .tLock t => Sys2Proof.Machine.execTLock t s
  | .tInit t => Sys2Proof.Machine.execTInit t s
  | .tFreq t => Sys2Proof.Machine.execTFreq t s
  | .setFrequency hz => Sys2Proof.Machine.execSetFrequency hz s
  | .tClear t => Sys2Proof.Machine.execTClear t s
  | .tLoop t => Sys2Proof.Machine.execTLoop t s
  | .tStep t => Sys2Proof.Machine.execTStep t s
  | .restartFor r k => Sys2Proof.Machine.execRestartFor r k s
  | .tAcq t => Sys2Proof.Machine.execTAcq t s
  | .acquire t => Sys2Proof.Machine.execAcquire t s
  | .aTest t => Sys2Proof.Machine.execATest t s
  | .aRestart t => Sys2Proof.Machine.execARestart t s
  | .aWaitfree t => Sys2Proof.Machine.execAWaitfree t s
  | .aStart t => Sys2Proof.Machine.execAStart t s
  | .aAddr t => Sys2Proof.Machine.execAAddr t s
  | .tArm t => Sys2Proof.Machine.execTArm t s
  | .tWait t => Sys2Proof.Machine.execTWait t s
  | .tCancel t => Sys2Proof.Machine.execTCancel t s
  | .tExit t => Sys2Proof.Machine.execTExit t s
  | .tResult t => Sys2Proof.Machine.execTResult t s
  | .tUnlock t => Sys2Proof.Machine.execTUnlock t s
  | .reset => Sys2Proof.Machine.execReset s
  | .nextmsg => Sys2Proof.Machine.execNextmsg s
  | .advanceSignal => Sys2Proof.Machine.execAdvanceSignal s
  | .advanceMerged => Sys2Proof.Machine.execAdvanceMerged s
  | .restartRecompute => Sys2Proof.Machine.execRestartRecompute s
  | .terminate => Sys2Proof.Machine.execTerminate s
  | .stop => Sys2Proof.Machine.execStop s
  | .signal => Sys2Proof.Machine.execSignal s
  | .wdtArm deadline g => Sys2Proof.Machine.execWdtArm deadline g s
  | .wdtCancel => Sys2Proof.Machine.execWdtCancel s
  | .wdtExpire => Sys2Proof.Machine.execWdtExpire s
  | .wdtHandler g => Sys2Proof.Machine.execWdtHandler g s
  | .irqDeliver => Sys2Proof.Machine.execIrqDeliver s
  | .envBusCondition v => Sys2Proof.Machine.execEnvBusCondition v s
  | .envTxComplete o => Sys2Proof.Machine.execEnvTxComplete o s
  | .envRxComplete o => Sys2Proof.Machine.execEnvRxComplete o s
  | .envDReadTx => Sys2Proof.Machine.execEnvDReadTx s
  | .envOtherMaster busy => Sys2Proof.Machine.execEnvOtherMaster busy s
  | .bufReadWrite r m k op => Sys2Proof.Machine.execBufReadWrite r m k op s
  | .msg r k => Sys2Proof.Machine.execMsg r k s

end Sys2Proof.Machine
end

