-- ==== Sys2Proof/WellFormed.lean ====
section
/-! DEFINITION. Which terms of `Instr` are instructions of the block: a dispatch row carries a
vector of its own bit pattern (R88), a control value writes 0 to the two unused bits of C1 (R81), a
watchdog delay is positive (R6), a snapshot handed to ISR_CLEAR_MODE has already failed the
arbitration test (R132, R133), and a call's `count` does not exceed its message array (R95, R173). -/

namespace Sys2Proof

open Machine (branchMatches sArbl c1FieldsByte)

/-- The check of one instruction, in a layout. -/
def WellFormed (L : Layout) : Instr → Bool
  | .cmdStart => true
  | .cmdRestart => true
  | .cmdRxAck => true
  | .cmdRxNoack => true
  | .cmdTx => true
  | .cmdStop => true
  | .cmdIdle => true
  | .clrAll => true
  | .clrIf => true
  | .addrW _ => true
  | .addrR _ => true
  | .dataW _ => true
  | .dataR => true
  | .dummyR => true
  | .freqF _ => true
  | .freqFlt _ => true
  | .rdS => true
  | .rdC1 => true
  | .isrGuard v => branchMatches L .guard v
  | .isrArbl v => branchMatches L .arbl v
  | .isrTxNak v => branchMatches L .txNak v
  | .isrTxWrByte v => branchMatches L .txWrByte v
  | .isrTxWrDone v => branchMatches L .txWrDone v
  | .isrTxWrMerge v => branchMatches L .txWrMerge v
  | .isrTxRdNoack v => branchMatches L .txRdNoack v
  | .isrTxRdAck v => branchMatches L .txRdAck v
  | .isrRxLastRestart v => branchMatches L .rxLastRestart v
  | .isrRxLastMerge1 v => branchMatches L .rxLastMerge1 v
  | .isrRxLastMerge v => branchMatches L .rxLastMerge v
  | .isrRxPenultRestart v => branchMatches L .rxPenultRestart v
  | .isrRxByte v => branchMatches L .rxByte v
  | .isrEntry => true
  | .isrClearMode st => !sArbl L st
  | .isrRxDispatch => true
  | .isrRxLastTail => true
  | .transfer _ msgs count => decide (count ≤ msgs.length)
  | .call _ _ msgs count => decide (count ≤ msgs.length)
  | .tLock _ => true
  | .tInit _ => true
  | .tFreq _ => true
  | .setFrequency _ => true
  | .tClear _ => true
  | .tLoop _ => true
  | .tStep _ => true
  | .restartFor _ _ => true
  | .tAcq _ => true
  | .acquire _ => true
  | .aTest _ => true
  | .aRestart _ => true
  | .aWaitfree _ => true
  | .aStart _ => true
  | .aAddr _ => true
  | .tArm _ => true
  | .tWait _ => true
  | .tCancel _ => true
  | .tExit _ => true
  | .tResult _ => true
  | .tUnlock _ => true
  | .reset => true
  | .nextmsg => true
  | .advanceSignal => true
  | .advanceMerged => true
  | .restartRecompute => true
  | .terminate => true
  | .stop => true
  | .signal => true
  | .wdtArm deadline _ => decide (0 < deadline)
  | .wdtCancel => true
  | .wdtExpire => true
  | .wdtHandler _ => true
  | .irqDeliver => true
  | .envBusCondition v => v &&& c1FieldsByte L == v
  | .envTxComplete _ => true
  | .envRxComplete _ => true
  | .envDReadTx => true
  | .envOtherMaster _ => true
  | .bufReadWrite _ _ _ _ => true
  | .msg _ _ => true

end Sys2Proof
end

