-- ==== Sys2Proof/Decode.lean ====
section
/-! DEFINITION. The decoder and the encoder of the rows that have a bit pattern (30_encoding.md R84
to R88; opcode_table.json "match" and "mask"). A code is one 8-bit register access, with the register
and direction that its format names, or one dispatch vector with the row's state condition. The other
rows of the table have no bit pattern: they are "selected by agent phase or event". -/

namespace Sys2Proof

open Machine

/-- An encoded instruction, one constructor per format of the table. `c1Write` carries C1.MST before
the write, which is all that tells CMD_START from CMD_TX (R84); a D write is the address byte of R86
or a data byte of R87, and a D read is DATA_R or DUMMY_R, by the phase that makes it. -/
inductive Code where
  | c1Write (mst : Bool) (v : Byte)
  | sWrite (v : Byte)
  | addrWrite (v : Byte)
  | dataWrite (v : Byte)
  | dataRead
  | dummyRead
  | fWrite (v : Byte)
  | fltWrite (v : Byte)
  | sRead
  | c1Read
  | dispatch (b : Branch) (v : Vec16)
  deriving DecidableEq, Repr

/-- Why a code is no instruction: R90 admits no control value outside R84, no status value outside
R85, and R88 no vector outside the row's pattern. -/
inductive DecodeError where
  | noSuchControlValue
  | noSuchStatusValue
  | patternMismatch
  deriving DecidableEq, Repr

/-- The control-register commands of R84. -/
def decodeC1 (L : Layout) (mst : Bool) (v : Byte) : Except DecodeError Instr :=
  if v = cmdStartByte L then .ok (if mst then .cmdTx else .cmdStart)
  else if v = cmdRestartByte L then .ok .cmdRestart
  else if v = cmdRxAckByte L then .ok .cmdRxAck
  else if v = cmdRxNoackByte L then .ok .cmdRxNoack
  else if v = cmdStopByte L then .ok .cmdStop
  else if v = cmdIdleByte L then .ok .cmdIdle
  else .error .noSuchControlValue

/-- The status-clear commands of R85. -/
def decodeS (L : Layout) (v : Byte) : Except DecodeError Instr :=
  if v = clrAllByte L then .ok .clrAll
  else if v = clrIfByte L then .ok .clrIf
  else .error .noSuchStatusValue

/-- The address byte of R86: `aaaaaaa0` writes, `aaaaaaa1` reads. -/
def decodeAddr (v : Byte) : Instr :=
  if v.getLsbD 0 then .addrR ((v >>> 1).setWidth 7) else .addrW ((v >>> 1).setWidth 7)

/-- The instruction of a dispatch row. -/
def branchInstr (b : Branch) (v : Vec16) : Instr :=
  match b with
  | .guard => .isrGuard v
  | .arbl => .isrArbl v
  | .txNak => .isrTxNak v
  | .txWrByte => .isrTxWrByte v
  | .txWrDone => .isrTxWrDone v
  | .txWrMerge => .isrTxWrMerge v
  | .txRdNoack => .isrTxRdNoack v
  | .txRdAck => .isrTxRdAck v
  | .rxLastRestart => .isrRxLastRestart v
  | .rxLastMerge1 => .isrRxLastMerge1 v
  | .rxLastMerge => .isrRxLastMerge v
  | .rxPenultRestart => .isrRxPenultRestart v
  | .rxByte => .isrRxByte v

/-- The decoder, in a layout. -/
def decode (L : Layout) : Code → Except DecodeError Instr
  | .c1Write mst v => decodeC1 L mst v
  | .sWrite v => decodeS L v
  | .addrWrite v => .ok (decodeAddr v)
  | .dataWrite v => .ok (.dataW v)
  | .dataRead => .ok .dataR
  | .dummyRead => .ok .dummyR
  | .fWrite v => .ok (.freqF v)
  | .fltWrite v => .ok (.freqFlt v)
  | .sRead => .ok .rdS
  | .c1Read => .ok .rdC1
  | .dispatch b v => if branchMatches L b v then .ok (branchInstr b v) else .error .patternMismatch

/-- The first of several codes that decodes. -/
def firstDecoded (L : Layout) : List Code → Option Instr
  | [] => none
  | c :: cs =>
    match decode L c with
    | .ok i => some i
    | .error _ => firstDecoded L cs

/-- The instruction of one 8-bit word of the table, the rows tried in the table's order. Words of
several formats overlap (R84 to R87), so the first row that matches wins. -/
def decodeByteWord (L : Layout) (v : Byte) : Option Instr :=
  firstDecoded L [.c1Write false v, .sWrite v, .addrWrite v]

/-- The instruction of one 16-bit dispatch vector, by its bits alone: the first row of R88 whose
mask and match hold, the guard (which tests no bit) left out. -/
def decodeVector (L : Layout) (v : Vec16) : Option Instr :=
  firstDecoded L [.dispatch .arbl v, .dispatch .txNak v, .dispatch .txWrByte v,
    .dispatch .rxLastRestart v]

/-- The instruction the decoder reads from a word alone, in a layout (DESIGN CHOICE, log entry 2). -/
def decodeWord (L : Layout) (nbits w : Nat) : Option Instr :=
  if nbits = 8 ∧ w < 2 ^ 8 then decodeByteWord L (BitVec.ofNat 8 w)
  else if nbits = 16 ∧ w < 2 ^ 16 then decodeVector L (BitVec.ofNat 16 w)
  else none

/-- The instruction the decoder reads from a word of opcode_table.json, whose numbers are those of the
default LAYOUT. -/
def decodeTableWord (nbits w : Nat) : Option Instr := decodeWord .default nbits w

/-- The encoder: the code of an instruction, or `none` for a row that the table gives no bit pattern
and that an agent's phase or an event selects. -/
def encode (L : Layout) : Instr → Option Code
  | .cmdStart => some (.c1Write false (cmdStartByte L))
  | .cmdRestart => some (.c1Write true (cmdRestartByte L))
  | .cmdRxAck => some (.c1Write true (cmdRxAckByte L))
  | .cmdRxNoack => some (.c1Write true (cmdRxNoackByte L))
  | .cmdTx => some (.c1Write true (cmdTxByte L))
  | .cmdStop => some (.c1Write true (cmdStopByte L))
  | .cmdIdle => some (.c1Write true (cmdIdleByte L))
  | .clrAll => some (.sWrite (clrAllByte L))
  | .clrIf => some (.sWrite (clrIfByte L))
  | .addrW a => some (.addrWrite (addrByteOf a false))
  | .addrR a => some (.addrWrite (addrByteOf a true))
  | .dataW d => some (.dataWrite d)
  | .dataR => some .dataRead
  | .dummyR => some .dummyRead
  | .freqF f => some (.fWrite f)
  | .freqFlt g => some (.fltWrite g)
  | .rdS => some .sRead
  | .rdC1 => some .c1Read
  | .isrGuard v => some (.dispatch .guard v)
  | .isrArbl v => some (.dispatch .arbl v)
  | .isrTxNak v => some (.dispatch .txNak v)
  | .isrTxWrByte v => some (.dispatch .txWrByte v)
  | .isrTxWrDone v => some (.dispatch .txWrDone v)
  | .isrTxWrMerge v => some (.dispatch .txWrMerge v)
  | .isrTxRdNoack v => some (.dispatch .txRdNoack v)
  | .isrTxRdAck v => some (.dispatch .txRdAck v)
  | .isrRxLastRestart v => some (.dispatch .rxLastRestart v)
  | .isrRxLastMerge1 v => some (.dispatch .rxLastMerge1 v)
  | .isrRxLastMerge v => some (.dispatch .rxLastMerge v)
  | .isrRxPenultRestart v => some (.dispatch .rxPenultRestart v)
  | .isrRxByte v => some (.dispatch .rxByte v)
  | .isrEntry => none
  | .isrClearMode _ => none
  | .isrRxDispatch => none
  | .isrRxLastTail => none
  | .transfer _ _ _ => none
  | .call _ _ _ _ => none
  | .tLock _ => none
  | .tInit _ => none
  | .tFreq _ => none
  | .setFrequency _ => none
  | .tClear _ => none
  | .tLoop _ => none
  | .tStep _ => none
  | .restartFor _ _ => none
  | .tAcq _ => none
  | .acquire _ => none
  | .aTest _ => none
  | .aRestart _ => none
  | .aWaitfree _ => none
  | .aStart _ => none
  | .aAddr _ => none
  | .tArm _ => none
  | .tWait _ => none
  | .tCancel _ => none
  | .tExit _ => none
  | .tResult _ => none
  | .tUnlock _ => none
  | .reset => none
  | .nextmsg => none
  | .advanceSignal => none
  | .advanceMerged => none
  | .restartRecompute => none
  | .terminate => none
  | .stop => none
  | .signal => none
  | .wdtArm _ _ => none
  | .wdtCancel => none
  | .wdtExpire => none
  | .wdtHandler _ => none
  | .irqDeliver => none
  | .envBusCondition _ => none
  | .envTxComplete _ => none
  | .envRxComplete _ => none
  | .envDReadTx => none
  | .envOtherMaster _ => none
  | .bufReadWrite _ _ _ _ => none
  | .msg _ _ => none

end Sys2Proof
end

