-- ==== Sys2Proof/Machine/Schedule.lean ====
section
/-! DEFINITION. Which instruction a move selects (R11, R33, R236): a thread's step by its phase label,
the other agents' steps by their event. -/

namespace Sys2Proof.Machine

/-- The row of a phase label (R33). IDLE has no step but the call, and no rule has the label DONE. -/
def phaseInstr (t : Nat) (p : Phase) : Option Instr :=
  match p with
  | .idle => none
  | .tLock => some (.tLock t)
  | .tInit => some (.tInit t)
  | .tFreq => some (.tFreq t)
  | .tClear => some (.tClear t)
  | .tLoop => some (.tLoop t)
  | .tStep => some (.tStep t)
  | .tAcq => some (.tAcq t)
  | .aTest => some (.aTest t)
  | .aRestart => some (.aRestart t)
  | .aWaitfree => some (.aWaitfree t)
  | .aStart => some (.aStart t)
  | .aAddr => some (.aAddr t)
  | .tArm => some (.tArm t)
  | .tWait => some (.tWait t)
  | .tCancel => some (.tCancel t)
  | .tExit => some (.tExit t)
  | .tResult => some (.tResult t)
  | .tUnlock => some (.tUnlock t)
  | .done => none

/-- The instruction a move selects in a state; `none` where no row has the move's step. -/
def selectMove (m : Move) (s : State) : Option Instr :=
  match m with
  | .thread t => phaseInstr t (s.caller t).pc
  | .call t ctx msgs count => some (.call t ctx msgs count)
  | .resetCall => some .reset
  | .irq => some .irqDeliver
  | .expire => some .wdtExpire
  | .txComplete o => some (.envTxComplete o)
  | .rxComplete o => some (.envRxComplete o)
  | .otherMaster busy => some (.envOtherMaster busy)
  | .stray _ _ _ _ => none

/-- What a move does that selects no row: the unconstrained environment's move (R234), or no step. -/
def moveWithoutRow (m : Move) (s : State) : State :=
  match m with
  | .stray iicif arbl rxak clearMst => strayFlags iicif arbl rxak clearMst s
  | .thread _ | .call _ _ _ _ | .resetCall | .irq | .expire | .txComplete _ | .rxComplete _
  | .otherMaster _ => s

/-- The entry of the schedule that comes next: the soonest of the agenda, or a free move (R236;
DESIGN CHOICE, log entry 1). -/
def nextSlot (s : State) : Slot :=
  match s.agenda with
  | [] => .move (Config.freeMove s.tick)
  | x :: _ => x

/-- The state with that entry taken. -/
def afterSlot (s : State) : State :=
  match s.agenda with
  | [] => { s with tick := s.tick + 1 }
  | _ :: rest => { s with agenda := rest }

end Sys2Proof.Machine
end

