-- ==== Sys2Proof/Machine/Step.lean ====
section
/-! DEFINITION. One step of the machine (R11, R12): the next entry of the schedule is taken, the
instruction it selects is run. -/

namespace Sys2Proof.Machine

/-- The step of one schedule entry. -/
def runSlot (x : Slot) (s : State) : Host.Outcome State Fault Refusal :=
  match x with
  | .word nbits w =>
    match decodeWord s.params.layout nbits w with
    | some i => exec i s
    | none => .fault .noSuchCommand
  | .move m =>
    match selectMove m s with
    | some i => exec i s
    | none => .next (moveWithoutRow m s)

/-- One step. -/
def step (s : State) : Host.Outcome State Fault Refusal := runSlot (nextSlot s) (afterSlot s)

/-- `s` with a word of opcode_table.json as the next entry of the schedule. -/
def State.withFetchWord (s : State) (nbits w : Nat) : State :=
  { s with agenda := .word nbits w :: s.agenda }

end Sys2Proof.Machine
end

