-- ==== Sys2Proof/Safety.lean ====
section
/-! DEFINITION. What the spec says of whole states: the boot premise (R261), the end of a run (R246),
a closed record (R29), and the invariants that the steps keep. -/

namespace Sys2Proof.Machine

/-- BootPremise (R261), the state part: C1 = `{EN}`, S.ARBL = S.IICIF = 0, the watchdog disarmed, the
lock free, `gen = done_gen = 0`, the frequency cache NONE. Pins and the interrupt's attachment are
glue outside the block; the handler is attached by `step` itself. -/
def BootPremise (s : State) : Prop :=
  s.c1 = cmdIdleByte s.params.layout ∧ sArbl s.params.layout s.status = false ∧
    sIicif s.params.layout s.status = false ∧ s.wdtArmed = false ∧ s.locked = false ∧
    s.gen = 0 ∧ s.doneGen = 0 ∧ s.ts.freqCache = none

/-- The end of a run (R246). -/
def RunEnded (s : State) : Prop :=
  (∀ t, (s.caller t).pc = .idle) ∧ s.locked = false ∧ s.wdtArmed = false ∧ s.pending = .none ∧
    s.faults = .empty ∧ s.refused = false

/-- The record is closed (R29): `nmsg = 0` or `status != OK`. -/
def RecordClosed (s : State) : Prop :=
  s.ts.nmsg = some 0 ∨ (s.ts.nmsg ≠ none ∧ ∃ st, s.ts.status = some st ∧ st ≠ .ok)

/-- The record is open: a message remains and the status is OK. -/
def RecordOpen (s : State) : Prop :=
  (∃ n, s.ts.nmsg = some n ∧ 0 < n) ∧ s.ts.status = some .ok

/-- The guard of R131 lets the handler pass: there is no guard, or the record is open. -/
def GuardPasses (s : State) : Prop := s.params.lateGuard = false ∨ RecordOpen s

/-- The phases between T_LOCK and T_UNLOCK: the thread holds the lock (R172, R186). -/
def holdsLock : Phase → Bool
  | .idle | .tLock | .done => false
  | .tInit | .tFreq | .tClear | .tLoop | .tStep | .tAcq | .aTest | .aRestart | .aWaitfree | .aStart
  | .aAddr | .tArm | .tWait | .tCancel | .tExit | .tResult | .tUnlock => true

/-- The phases after T_INIT has set the record (R173). -/
def recordReady : Phase → Bool
  | .idle | .tLock | .tInit | .done => false
  | .tFreq | .tClear | .tLoop | .tStep | .tAcq | .aTest | .aRestart | .aWaitfree | .aStart
  | .aAddr | .tArm | .tWait | .tCancel | .tExit | .tResult | .tUnlock => true

/-- The phases of an open step, after T_STEP has set the restart flag (R178). -/
def stepOpened : Phase → Bool
  | .idle | .tLock | .tInit | .tFreq | .tClear | .tLoop | .tStep | .tExit | .tResult | .tUnlock
  | .done => false
  | .tAcq | .aTest | .aRestart | .aWaitfree | .aStart | .aAddr | .tArm | .tWait | .tCancel => true

/-- The phases of a call in which C1.IE may be 1: not before the loop (R173 to R176), not after
T_EXIT (R184). -/
def mayInterrupt : Phase → Bool
  | .idle | .tLock | .tInit | .tFreq | .tClear | .tResult | .tUnlock | .done => false
  | .tLoop | .tStep | .tAcq | .aTest | .aRestart | .aWaitfree | .aStart | .aAddr | .tArm | .tWait
  | .tCancel | .tExit => true

/-- Memory and the list of callers are in their canonical form: keys rising, no entry equal to what an
unlisted key reads as. -/
def Canonical (s : State) : Prop :=
  Memory.wf s.mem = true ∧ cellsWfFrom (fun c => c != Caller.atReset) 0 s.callers = true

/-- The lock is exclusive (R31, R172, R186): a thread in a lock-holding phase is the only one, and the
lock is taken exactly while there is one. -/
def LockExclusive (s : State) : Prop :=
  (∀ t u, holdsLock (s.caller t).pc = true → holdsLock (s.caller u).pc = true → t = u) ∧
    (s.locked = true ↔ ∃ t, holdsLock (s.caller t).pc = true)

/-- The watchdog covers the wait of one step and nothing else (R206): while it is armed, a thread is
between T_ARM and T_CANCEL, and its context is the generation of the step in progress. -/
def WatchdogCovers (s : State) : Prop :=
  s.wdtArmed = true →
    (∃ t, (s.caller t).pc = .tWait ∨ (s.caller t).pc = .tCancel) ∧ s.wdtCtx = s.gen

/-- What the environment contract says of the peripheral (R228 to R233), in the constrained
environment and a well-formed layout: a byte is in flight only while the block is master, the bus is
busy while the block is master, and the unused bits of C1 are 0 (R81). -/
def PeripheralSound (s : State) : Prop :=
  s.params.layout.wf = true ∧ s.params.unconstrained = false ∧
    (s.pending ≠ .none → c1Mst s.params.layout s.c1 = true) ∧
    (c1Mst s.params.layout s.c1 = true → sBusy s.params.layout s.status = true) ∧
    s.c1 &&& c1FieldsByte s.params.layout = s.c1

/-- restart_for(i) (R179) as a value. -/
def restartValue (msgs : List Message) (count i : Int) : Bool :=
  if i + 1 < count then !mergeable (msgEntry msgs i.toNat) (msgEntry msgs (i + 1).toNat) else true

/-- A set record (R24, R25): every field of the call is set, the cursor is inside the chain,
`idx + nmsg = count` while `nmsg > 0`, and the byte cursors are inside the current message while the
record is open. -/
structure RecordGood (s : State) (msgs : List Message) (count idx nmsg written read : Int)
    (st : Status) : Prop where
  msgs_eq : s.ts.msgs = some msgs
  count_eq : s.ts.count = some count
  idx_eq : s.ts.idx = some idx
  nmsg_eq : s.ts.nmsg = some nmsg
  written_eq : s.ts.written = some written
  read_eq : s.ts.read = some read
  status_eq : s.ts.status = some st
  idx_low : 0 ≤ idx
  idx_high : idx < count
  nmsg_low : 0 ≤ nmsg
  cursor : 0 < nmsg → idx + nmsg = count
  lengths : ∀ i : Nat, (i : Int) < count → 0 ≤ (msgEntry msgs i).length
  bytes : 0 < nmsg → st = .ok →
    0 ≤ written ∧ written ≤ (msgEntry msgs idx.toNat).length ∧ 0 ≤ read ∧
      read ≤ (msgEntry msgs idx.toNat).length ∧
      (read = (msgEntry msgs idx.toNat).length → read = 0)

/-- The restart flag of an open record is that of its current message (R26). -/
def RestartGood (s : State) : Prop :=
  ∀ msgs count idx, s.ts.msgs = some msgs → s.ts.count = some count → s.ts.idx = some idx →
    RecordOpen s → s.ts.restart = some (restartValue msgs count idx)

/-- The invariant of a block that runs with RESTART_MODE = PER_TRANSITION and LATE_GUARD = true under
any schedule of its agents (no word put onto it from outside): the lock is exclusive, interrupts are
enabled only inside a call, the record is set whenever a rule reads it, the restart flag is never
stale, and neither NoNextMessage nor UnsetRead has been raised (R142, R44). -/
structure ChainSound (s : State) : Prop where
  layoutWf : s.params.layout.wf = true
  perTransition : s.params.restartMode = .perTransition
  guarded : s.params.lateGuard = true
  agentsOnly : ∀ x ∈ s.agenda, ∃ m, x = .move m
  lock : LockExclusive s
  quiet : c1Ie s.params.layout s.c1 = true → ∃ t, mayInterrupt (s.caller t).pc = true
  ready : ∀ t, recordReady (s.caller t).pc = true →
    ∃ msgs count idx nmsg written read st, RecordGood s msgs count idx nmsg written read st
  restart : ∀ t, (stepOpened (s.caller t).pc = true ∨
    (recordReady (s.caller t).pc = true ∧ c1Ie s.params.layout s.c1 = true)) → RestartGood s
  noNext : s.faults.noNextMessage = false
  noUnset : s.faults.unsetRead = false

end Sys2Proof.Machine
end

