-- ==== Sys2Proof/Certificates/Slice0/Obligations.lean ====
section
/-! DEFINITION. The statements for the provers. The helper predicates of `Sys2Proof.Claims` write the
rules' effects as equations between states: a field that an equation does not name is unchanged, so
each equation is also a frame. Every statement holds for every LAYOUT of R6 (well formed, where the rule
needs its fields apart): a bit is named by its field. -/

namespace Sys2Proof.Claims

open Sys2Proof.Machine

/-- The instruction completes: it answers a next state, with `P`. -/
def Completes (i : Instr) (s : State) (P : State → Prop) : Prop := ∃ t, exec i s = .next t ∧ P t

/-- Caller thread `u` is at label `p` and no fault has stopped it. -/
def AtPhase (s : State) (u : Nat) (p : Phase) : Prop :=
  (s.caller u).pc = p ∧ (s.caller u).stopped = false

/-- Thread `u`'s record is `c` afterwards, and every other thread's is as before. -/
def CallerBecomes (s : State) (u : Nat) (c : Caller) (t : State) : Prop :=
  t.caller u = c ∧ ∀ v, v ≠ u → t.caller v = s.caller v

/-- RegWrite(C1, v) by R228: the value, the bus condition, S.BUSY and the byte in flight. -/
def C1Write (v : Byte) (s t : State) : Prop :=
  ∃ ev st p,
    t = { s with
      c1 := v, bus := s.bus ++ ev, status := st, pending := p, cmds := s.cmds ++ [.write .c1 v] } ∧
    match s.c1.getLsbD s.params.layout.mst, v.getLsbD s.params.layout.mst with
    | false, true =>
      ev = [.start] ∧ st = setBitAt s.status s.params.layout.busy ∧ p = s.pending
    | true, true =>
      ev = (if v.getLsbD s.params.layout.rsta then [.restart] else []) ∧ st = s.status ∧ p = s.pending
    | true, false => ev = [.stop] ∧ st = clearBitAt s.status s.params.layout.busy ∧ p = .none
    | false, false => ev = [] ∧ st = s.status ∧ p = s.pending

/-- A control command of R84: RegWrite(C1, v) of the byte that `fields` names in the layout. -/
def Command (fields : Layout → List Nat) (s t : State) : Prop :=
  C1Write (fieldsByte (fields s.params.layout)) s t

/-- CMD_START and CMD_TX (R84). -/
def startFields (L : Layout) : List Nat := [L.en, L.ie, L.mst, L.tx]
/-- CMD_RESTART (R84). -/
def restartFields (L : Layout) : List Nat := [L.en, L.ie, L.mst, L.tx, L.rsta]
/-- CMD_RX_ACK (R84). -/
def rxAckFields (L : Layout) : List Nat := [L.en, L.ie, L.mst]
/-- CMD_RX_NOACK (R84). -/
def rxNoackFields (L : Layout) : List Nat := [L.en, L.ie, L.mst, L.txak]
/-- CMD_STOP (R84). -/
def stopFields (L : Layout) : List Nat := [L.en, L.ie]
/-- CMD_IDLE (R84). -/
def idleFields (L : Layout) : List Nat := [L.en]

/-- RegWrite(S, CLR_ALL) by R61: ARBL and IICIF become 0, no other bit changes. -/
def ClearAll (s t : State) : Prop :=
  t = { s with
    status := clearBitAt (clearBitAt s.status s.params.layout.arbl) s.params.layout.iicif
    cmds := s.cmds ++ [.write .s (fieldsByte [s.params.layout.arbl, s.params.layout.iicif])] }

/-- RegWrite(S, CLR_IF) by R61: IICIF becomes 0, no other bit changes. -/
def ClearIf (s t : State) : Prop :=
  t = { s with
    status := clearBitAt s.status s.params.layout.iicif
    cmds := s.cmds ++ [.write .s (fieldsByte [s.params.layout.iicif])] }

/-- RegWrite(D, v) by R229: in master-transmit mode (MST and TX) the byte is in flight. `dTx` may
change: D is the register written (its new value is a clause of `DataAndFrequencyWrites` alone). -/
def DWrite (v : Byte) (s t : State) : Prop :=
  ∃ d, t = { s with
    dTx := d
    pending :=
      if s.c1.getLsbD s.params.layout.mst = true ∧ s.c1.getLsbD s.params.layout.tx = true then .txByte v
      else s.pending
    cmds := s.cmds ++ [.write .d v] }

/-- RegRead(D) by R230 and R231: in master-receive mode a reception starts, acknowledged unless TXAK
is 1; in any other mode nothing starts. -/
def DRead (s t : State) : Prop :=
  t = { s with
    pending :=
      if s.c1.getLsbD s.params.layout.mst = true ∧ s.c1.getLsbD s.params.layout.tx = false then
        .rxByte (!s.c1.getLsbD s.params.layout.txak)
      else s.pending
    cmds := s.cmds ++ [.read .d s.rxLatch] }

/-- The peripheral interrupt is pending (R227): EN, IE and IICIF. -/
def IrqPending (s : State) : Prop :=
  s.c1.getLsbD s.params.layout.en = true ∧ s.c1.getLsbD s.params.layout.ie = true ∧
    s.status.getLsbD s.params.layout.iicif = true

/-- The status register as the handler reads it first (R130). -/
def statusRead (s : State) : State := { s with cmds := s.cmds ++ [.read .s s.status] }

/-- A transmit-mode vector without arbitration loss, acknowledged (R88). -/
def TxAcked (L : Layout) (v : Vec16) : Prop :=
  v.getLsbD (L.tx + 8) = true ∧ v.getLsbD L.arbl = false ∧ v.getLsbD L.rxak = false

/-- A transmit-mode vector without arbitration loss, not acknowledged (R88). -/
def TxNaked (L : Layout) (v : Vec16) : Prop :=
  v.getLsbD (L.tx + 8) = true ∧ v.getLsbD L.arbl = false ∧ v.getLsbD L.rxak = true

/-- A receive-mode vector without arbitration loss; RXAK is not tested (R88). -/
def RxMode (L : Layout) (v : Vec16) : Prop :=
  v.getLsbD (L.tx + 8) = false ∧ v.getLsbD L.arbl = false

/-- One byte of caller memory is stored at `a`; every other byte reads as before. -/
def Stored (a : Nat) (v : Byte) (s t : State) : Prop :=
  t = { s with mem := t.mem } ∧ memRead a t.mem = v ∧ ∀ b, b ≠ a → memRead b t.mem = memRead b s.mem

/-- `m` is the current message `Msg(ts.idx)` (R24). -/
def Current (s : State) (m : Message) : Prop :=
  ∃ msgs count idx, s.ts.msgs = some msgs ∧ s.ts.count = some count ∧ s.ts.idx = some idx ∧
    0 ≤ idx ∧ idx < count ∧ m = msgEntry msgs idx.toNat

/-- D read, the byte stored at index `i` of `m`'s buffer, `ts.read` advanced (R144, R145, R146). -/
def Consumes (m : Message) (i : Int) (s t : State) : Prop :=
  ∃ u w, DRead s u ∧ Stored (m.buffer + i.toNat) s.rxLatch u w ∧
    t = { w with ts := { w.ts with read := some (i + 1) } }

/-- The record as the walker finds it (R160): the cursor is inside the chain, and a message follows
when more than one remains. -/
structure Chain (s : State) (msgs : List Message) (count idx n : Int) (restart : Bool) : Prop where
  msgs_eq : s.ts.msgs = some msgs
  count_eq : s.ts.count = some count
  idx_eq : s.ts.idx = some idx
  nmsg_eq : s.ts.nmsg = some n
  restart_eq : s.ts.restart = some restart
  low : 0 ≤ idx
  high : idx < count
  more : 1 < n → idx + 1 < count

/-- The record after an advance (R161, R162, R163). -/
def advancedTs (s : State) (msgs : List Message) (count idx n : Int) (restart : Bool) :
    TransferState :=
  { s.ts with
    nmsg := some n
    idx := some (idx + 1)
    written := some 0
    read := some 0
    restart := some (match s.params.restartMode with
      | .perTransition => restartValue msgs count (idx + 1)
      | .perStep => restart) }

/-- NEXTMSG() by R160 to R166, with its outcome. -/
def Walks (msgs : List Message) (count idx n : Int) (restart : Bool) (s t : State)
    (o : WalkOutcome) : Prop :=
  (n ≤ 1 ∧ o = .terminated ∧
    ∃ u, Command stopFields { s with ts := { s.ts with nmsg := some (n - 1) } } u ∧
      t = { u with doneGen := s.gen }) ∨
  (1 < n ∧ restart = true ∧ o = .advancedSignalled ∧
    t = { s with ts := advancedTs s msgs count idx (n - 1) restart, doneGen := s.gen }) ∨
  (1 < n ∧ restart = false ∧ o = .advancedMerged ∧
    t = { s with ts := advancedTs s msgs count idx (n - 1) restart })

/-- STOP() by R165, after the status is set to `st` (R132, R134). -/
def EndsWith (st : Status) (s t : State) : Prop :=
  ∃ u, Command stopFields { s with ts := { s.ts with status := some st } } u ∧
    t = { u with doneGen := s.gen }

/-- Arbitration is lost by the byte in flight (R229, R230). -/
def Loses (s t : State) : Prop :=
  t = { s with
    bus := s.bus ++ [.arbitrationLost], pending := .none
    status := setBitAt (setBitAt s.status s.params.layout.arbl) s.params.layout.iicif
    c1 := clearBitAt s.c1 s.params.layout.mst }

/-- A BufferOverrun of the handler (R40): the reason is recorded and the handler stops for good. -/
def overrun (s : State) : State :=
  { s with faults := { s.faults with bufferOverrun := true }, handlerStopped := true }

/-- The rows that run in the interrupt handler's context (R240). -/
def handlerRow : Instr → Bool
  | .dataR | .dummyR | .isrGuard _ | .isrArbl _ | .isrTxNak _ | .isrTxWrByte _ | .isrTxWrDone _
  | .isrTxWrMerge _ | .isrTxRdNoack _ | .isrTxRdAck _ | .isrRxLastRestart _ | .isrRxLastMerge1 _
  | .isrRxLastMerge _ | .isrRxPenultRestart _ | .isrRxByte _ | .isrEntry | .isrClearMode _
  | .isrRxDispatch | .isrRxLastTail | .nextmsg | .advanceSignal | .advanceMerged
  | .restartRecompute | .terminate | .stop | .irqDeliver => true
  | _ => false

/-- The rows that may store a received byte (R63, R144, R145, R146): the receive rows, and the rows that
run one of them. -/
def storingRow : Instr → Bool
  | .dataR | .isrRxLastRestart _ | .isrRxLastMerge1 _ | .isrRxLastMerge _ | .isrRxPenultRestart _
  | .isrRxByte _ | .isrRxLastTail | .isrRxDispatch | .isrClearMode _ | .isrEntry | .irqDeliver => true
  | _ => false

/-- The phase rows of a thread, with their labels (R33). -/
def phaseRow : Instr → Option (Nat × Phase)
  | .tLock u => some (u, .tLock)
  | .tInit u => some (u, .tInit)
  | .tFreq u => some (u, .tFreq)
  | .tClear u => some (u, .tClear)
  | .tLoop u => some (u, .tLoop)
  | .tStep u => some (u, .tStep)
  | .tAcq u => some (u, .tAcq)
  | .aTest u => some (u, .aTest)
  | .aRestart u => some (u, .aRestart)
  | .aWaitfree u => some (u, .aWaitfree)
  | .aStart u => some (u, .aStart)
  | .aAddr u => some (u, .aAddr)
  | .tArm u => some (u, .tArm)
  | .tWait u => some (u, .tWait)
  | .tCancel u => some (u, .tCancel)
  | .tExit u => some (u, .tExit)
  | .tResult u => some (u, .tResult)
  | .tUnlock u => some (u, .tUnlock)
  | _ => none

/-- A row's condition in R88, both halves, read off the vector and the state. -/
def RowTaken (b : Branch) (v : Vec16) (m : Message) (s : State) : Prop :=
  match b with
  | .txNak => TxNaked s.params.layout v
  | .txWrByte => TxAcked s.params.layout v ∧ m.read = false ∧
      ∃ w, s.ts.written = some w ∧ w ≠ m.length
  | .txWrDone => TxAcked s.params.layout v ∧ m.read = false ∧ s.ts.written = some m.length
  | .txRdNoack => TxAcked s.params.layout v ∧ m.read = true ∧ m.length = 1 ∧
      s.ts.restart = some true
  | .txRdAck => TxAcked s.params.layout v ∧ m.read = true ∧
      (m.length ≠ 1 ∨ s.ts.restart = some false)
  | .rxLastRestart => RxMode s.params.layout v ∧ s.ts.read = some (m.length - 1) ∧
      s.ts.restart = some true
  | .rxLastMerge1 => RxMode s.params.layout v ∧ s.ts.read = some (m.length - 1) ∧
      s.ts.restart = some false ∧ ∃ k n, s.ts.idx = some k ∧ msgAt (k + 1) s = .ok n s ∧ n.length = 1
  | .rxLastMerge => RxMode s.params.layout v ∧ s.ts.read = some (m.length - 1) ∧
      s.ts.restart = some false ∧ ∃ k n, s.ts.idx = some k ∧ msgAt (k + 1) s = .ok n s ∧ n.length ≠ 1
  | .rxPenultRestart => RxMode s.params.layout v ∧ s.ts.read = some (m.length - 2) ∧
      s.ts.restart = some true
  | .rxByte => RxMode s.params.layout v ∧ ∃ i, s.ts.read = some i ∧ i ≠ m.length - 1 ∧
      (i ≠ m.length - 2 ∨ s.ts.restart = some false)
  | .guard | .arbl | .txWrMerge => False

end Sys2Proof.Claims

open Sys2Proof Sys2Proof.Machine Sys2Proof.Claims

/-! ## Encodings -/

/-- R84 to R88: in every well-formed layout no bit of an encoding is dropped. -/
def Obligations.DecodeOfEncodeIsTheInstruction : Prop :=
  ∀ (L : Layout) i c, L.wf = true → WellFormed L i = true → encode L i = some c → decode L c = .ok i

/-- R90: what the decoder accepts is one of the spec's values, and its instruction is well formed and
has a code of its own. -/
def Obligations.DecoderAcceptsOnlyTheSpecsValues : Prop :=
  ∀ L : Layout,
    (∀ c i, decode L c = .ok i →
      WellFormed L i = true ∧ ∃ d, encode L i = some d ∧ decode L d = .ok i) ∧
    (∀ mst v i, decode L (.c1Write mst v) = .ok i →
      v ∈ [startFields L, restartFields L, rxAckFields L, rxNoackFields L, stopFields L,
        idleFields L].map fieldsByte) ∧
    (∀ v i, decode L (.sWrite v) = .ok i → v ∈ [[L.arbl, L.iicif], [L.iicif]].map fieldsByte) ∧
    (∀ b v i, decode L (.dispatch b v) = .ok i → v &&& branchMask L b = branchPattern L b)

/-- Words written out from R84 to R88 decode, in the default layout, to the instructions they stand
for. -/
def Obligations.SpecWordsDecode : Prop :=
  decode .default (.c1Write false 0xF0#8) = .ok .cmdStart ∧
    decode .default (.c1Write true 0xF0#8) = .ok .cmdTx ∧
    decode .default (.sWrite 0x02#8) = .ok .clrIf ∧
    decode .default (.addrWrite 0xA1#8) = .ok (.addrR 0x50#7) ∧
    decode .default (.addrWrite 0x3A#8) = .ok (.addrW 0x1D#7) ∧
    decode .default (.dataWrite 0x5C#8) = .ok (.dataW 0x5C#8) ∧
    decodeTableWord 8 0xF4 = some .cmdRestart ∧ decodeTableWord 8 0x12 = some .clrAll ∧
    decodeTableWord 16 0xF032 = some (.isrArbl 0xF032#16) ∧
    decodeTableWord 16 0xF023 = some (.isrTxNak 0xF023#16)

/-- R8, R84, R85: a register value given by its fields has exactly their bits, a bit set or cleared is
that bit alone, and in the default LAYOUT the commands are the bytes that the spec prints. -/
def Obligations.FieldsAreTheirBits : Prop :=
  (∀ (ps : List Nat) (i : Nat), (fieldsByte ps).getLsbD i = true ↔ i < 8 ∧ i ∈ ps) ∧
    (∀ (v : Byte) (n i : Nat),
      ((setBitAt v n).getLsbD i = true ↔ v.getLsbD i = true ∨ (i < 8 ∧ i = n)) ∧
      ((clearBitAt v n).getLsbD i = true ↔ v.getLsbD i = true ∧ i ≠ n)) ∧
    [startFields .default, restartFields .default, rxAckFields .default, rxNoackFields .default,
        stopFields .default, idleFields .default].map fieldsByte =
      [0xF0#8, 0xF4#8, 0xE0#8, 0xE8#8, 0xC0#8, 0x80#8] ∧
    [[Layout.default.arbl, Layout.default.iicif], [Layout.default.iicif]].map fieldsByte =
      [0x12#8, 0x02#8]

/-- R88: in every well-formed layout the pattern of a row holds exactly on the vectors whose TX, ARBL and
RXAK bits are those of the row. -/
def Obligations.PatternsTestTheirBits : Prop :=
  ∀ (L : Layout) (v : Vec16), L.wf = true →
    branchMatches L .guard v = true ∧
    (branchMatches L .arbl v = true ↔ v.getLsbD L.arbl = true) ∧
    (branchMatches L .txNak v = true ↔ TxNaked L v) ∧
    (∀ b ∈ [Branch.txWrByte, .txWrDone, .txWrMerge, .txRdNoack, .txRdAck],
      branchMatches L b v = true ↔ TxAcked L v) ∧
    (∀ b ∈ [Branch.rxLastRestart, .rxLastMerge1, .rxLastMerge, .rxPenultRestart, .rxByte],
      branchMatches L b v = true ↔ RxMode L v)

/-- R86: bits 7 to 1 hold the target address and bit 0 the direction. -/
def Obligations.AddressByteHoldsAddressAndDirection : Prop :=
  ∀ m : Message, (addrByte m).extractLsb' 1 7 = m.addr ∧ (addrByte m).getLsbD 0 = m.read

/-! ## The step -/

/-- The step of a table word is `exec` of the decoded instruction, with the word taken off the
schedule; a word that decodes to nothing stops the machine by name. -/
def Obligations.StepRunsTheDecodedWord : Prop :=
  (∀ s nbits w rest, s.agenda = .word nbits w :: rest →
    (∀ i, decodeWord s.params.layout nbits w = some i → step s = exec i { s with agenda := rest }) ∧
    (decodeWord s.params.layout nbits w = none → step s = .fault .noSuchCommand) ∧
    ∀ s', step (s'.withFetchWord nbits w) = runSlot (.word nbits w) s') ∧
  ∀ nbits w i, decodeTableWord nbits w = some i → step (State.reset.withFetchWord nbits w) =
    exec i State.reset

/-- R11, R33, R234: the step of a move is `exec` of the row that the agent's phase or event selects, with
the move taken off the schedule; with no move scheduled, a free move is taken (R236). Two moves select
no row: a thread's at a label with no rule, which changes nothing, and the move of the unconstrained
environment, which sets the chosen flags of S and may clear C1.MST, and which exists there alone. -/
def Obligations.StepRunsTheSelectedRow : Prop :=
  ∀ s, (∀ m rest, s.agenda = .move m :: rest →
      (∀ u i p, m = .thread u → (s.caller u).pc = p → phaseRow i = some (u, p) →
        step s = exec i { s with agenda := rest }) ∧
      (∀ u, m = .thread u → ((s.caller u).pc = .idle ∨ (s.caller u).pc = .done) →
        step s = .next { s with agenda := rest }) ∧
      (∀ u ctx msgs count, m = .call u ctx msgs count →
        step s = exec (.call u ctx msgs count) { s with agenda := rest }) ∧
      (m = .resetCall → step s = exec .reset { s with agenda := rest }) ∧
      (m = .irq → step s = exec .irqDeliver { s with agenda := rest }) ∧
      (m = .expire → step s = exec .wdtExpire { s with agenda := rest }) ∧
      (∀ o, m = .txComplete o → step s = exec (.envTxComplete o) { s with agenda := rest }) ∧
      (∀ o, m = .rxComplete o → step s = exec (.envRxComplete o) { s with agenda := rest }) ∧
      (∀ b, m = .otherMaster b → step s = exec (.envOtherMaster b) { s with agenda := rest }) ∧
      (∀ iicif arbl rxak clearMst, m = .stray iicif arbl rxak clearMst →
        (s.params.unconstrained = false → step s = .next { s with agenda := rest }) ∧
        (s.params.unconstrained = true →
          ∃ t, step s = .next t ∧ t = { s with agenda := rest, status := t.status, c1 := t.c1 } ∧
            ∀ i < 8,
              (t.status.getLsbD i = true ↔ s.status.getLsbD i = true ∨
                (iicif = true ∧ i = s.params.layout.iicif) ∨ (arbl = true ∧ i = s.params.layout.arbl) ∨
                (rxak = true ∧ i = s.params.layout.rxak)) ∧
              (t.c1.getLsbD i = true ↔ s.c1.getLsbD i = true ∧
                ¬(clearMst = true ∧ i = s.params.layout.mst))))) ∧
    (s.agenda = [] →
      step s = runSlot (.move (Config.freeMove s.tick)) { s with tick := s.tick + 1 })

/-! ## Reset and the invariants -/

/-- R44 and R261: the values the spec gives for power-on, under the boot premise, with any parameters
of R6; `State.reset` has the defaults. -/
def Obligations.ResetIsTheBootState : Prop :=
  (∀ p s, s = State.atPowerOn p →
    BootPremise s ∧ s.ts = TransferState.unset ∧ (∀ t, (s.caller t).pc = .idle) ∧ s.wdtCtx = 0 ∧
    s.pending = .none ∧ s.bus = [] ∧ s.faults = .empty ∧ s.refused = false ∧ ¬IrqPending s ∧
    RunEnded s ∧ s.params = p) ∧
  State.reset = State.atPowerOn .default ∧ Params.default.layout.wf = true ∧
    Params.default.restartMode = .perTransition ∧ Params.default.lateGuard = true ∧
    Params.default.eio = 5 ∧ 1 ≤ Params.default.nCallers

/-- The invariants hold at power-on, in every well-formed layout. -/
def Obligations.ResetMeetsTheInvariants : Prop :=
  ∀ p s, s = State.atPowerOn p → p.layout.wf = true →
    Canonical s ∧ LockExclusive s ∧ WatchdogCovers s ∧ s.doneGen ≤ s.gen ∧
    (p.unconstrained = false → PeripheralSound s) ∧
    (p.restartMode = .perTransition → p.lateGuard = true → ChainSound s)

/-- Memory and the list of callers keep their canonical form in every step: keys rising, no entry equal
to what an unlisted key reads as (log entries 3 and 11). -/
def Obligations.StepKeepsCanonicalForm : Prop :=
  ∀ s t, Canonical s → step s = .next t → Canonical t

/-- R228 to R233: what the environment contract says of the peripheral is kept by every step. -/
def Obligations.StepKeepsPeripheralSound : Prop :=
  ∀ s t, PeripheralSound s → step s = .next t → PeripheralSound t

/-- R31, R172, R186: at most one thread is between T_LOCK and T_UNLOCK. -/
def Obligations.StepKeepsLockExclusive : Prop :=
  ∀ s t, LockExclusive s → step s = .next t → LockExclusive t

/-- R206: the watchdog is armed only between T_ARM and T_CANCEL, for the step in progress. -/
def Obligations.StepKeepsWatchdogCoverage : Prop :=
  ∀ s t, LockExclusive s → WatchdogCovers s → step s = .next t → WatchdogCovers t

/-- R142, R163, R24, R44: with RESTART_MODE = PER_TRANSITION and the guard, under every schedule of
the agents, the restart flag is never stale and neither NoNextMessage nor UnsetRead is ever raised. -/
def Obligations.StepKeepsChainSound : Prop :=
  ∀ s t, ChainSound s → step s = .next t → ChainSound t

/-- R64, R135, R144, R145, R146: in such a block a BufferOverrun is new only where the chain holds a
message of length 0. -/
def Obligations.OnlyEmptyMessagesOverrun : Prop :=
  ∀ s t, ChainSound s → step s = .next t → t.faults.bufferOverrun = true →
    s.faults.bufferOverrun = true ∨
      ∃ msgs count, s.ts.msgs = some msgs ∧ s.ts.count = some count ∧
        ∃ i : Nat, (i : Int) < count ∧ (msgEntry msgs i).length = 0

/-- R30: `done_gen <= gen`. -/
def Obligations.StepKeepsGenerationOrder : Prop :=
  ∀ s t, s.doneGen ≤ s.gen → step s = .next t → t.doneGen ≤ t.gen

/-- R40, R41, R13, R6: a recorded reason and the refusal mark are never taken back, a stopped agent stays
stopped, the traces only grow, no step writes a parameter, and a thread numbered N_CALLERS or above that
is in no call never enters one. -/
def Obligations.StepKeepsTheMarksAndTraces : Prop :=
  ∀ s t, step s = .next t →
    (∀ r, s.faults.has r = true → t.faults.has r = true) ∧
    (s.refused = true → t.refused = true) ∧
    (s.handlerStopped = true → t.handlerStopped = true) ∧
    (∀ u, (s.caller u).stopped = true → (t.caller u).stopped = true) ∧
    (∃ x, t.bus = s.bus ++ x) ∧ (∃ x, t.cmds = s.cmds ++ x) ∧ (∃ x, t.returns = s.returns ++ x) ∧
    t.params = s.params ∧
    ∀ u, s.params.nCallers ≤ u → (s.caller u).pc = .idle → t.caller u = s.caller u

/-! ## Frames -/

/-- R63: only the handler's receive rows and a BufWrite store to caller memory. A receive row stores at
most at the current message's buffer, index `ts.read`, inside the buffer; a row that runs a branch of
R133 stores nothing in transmit mode; every other row leaves all of memory as it was. -/
def Obligations.MemoryChangesOnlyWhereTheRulesStore : Prop :=
  (∀ i s t, storingRow i = false → (∀ r m k v, i ≠ .bufReadWrite r m k (.write v)) →
    exec i s = .next t → ∀ a, memRead a t.mem = memRead a s.mem) ∧
  (∀ i s t, storingRow i = true → exec i s = .next t →
    ∀ a, (∀ m k, Current s m → s.ts.read = some k → 0 ≤ k → k < m.length → a ≠ bufAddr m k) →
      memRead a t.mem = memRead a s.mem) ∧
  (∀ i s t, ((∃ st, i = .isrClearMode st) ∨ i = .isrEntry ∨ i = .irqDeliver) →
    s.c1.getLsbD s.params.layout.tx = true → exec i s = .next t →
      ∀ a, memRead a t.mem = memRead a s.mem) ∧
  (∀ r m k v s t, exec (.bufReadWrite r m k (.write v)) s = .next t →
    ∀ a, (0 ≤ k → k < m.length → a ≠ bufAddr m k) → memRead a t.mem = memRead a s.mem)

/-- R237, R238: taking the interrupt saves nothing and changes no mode; the handler writes the Transfer
State, the completion channel, the peripheral and the buffers, and no other state. -/
def Obligations.HandlerTouchesOnlySharedState : Prop :=
  ∀ i s t, handlerRow i = true → exec i s = .next t →
    t = { s with
      ts := t.ts, doneGen := t.doneGen, c1 := t.c1, status := t.status, dTx := t.dTx
      pending := t.pending, bus := t.bus, cmds := t.cmds, mem := t.mem, faults := t.faults
      handlerStopped := t.handlerStopped, out := t.out } ∧
    t.ts.msgs = s.ts.msgs ∧ t.ts.count = s.ts.count ∧ t.ts.freqCache = s.ts.freqCache

/-- R33, R42, R181: a phase of one thread changes no other thread's record, no buffer, no cursor and
no receive latch; only T_INIT writes the cursors and the status. -/
def Obligations.PhaseTouchesOnlyItsOwnThread : Prop :=
  ∀ i u p s t, phaseRow i = some (u, p) → exec i s = .next t →
    (∀ v, v ≠ u → t.caller v = s.caller v) ∧ t.mem = s.mem ∧ t.rxLatch = s.rxLatch ∧
    t.handlerStopped = s.handlerStopped ∧ t.doneGen = s.doneGen ∧ t.params = s.params ∧
    t.agenda = s.agenda ∧ t.tick = s.tick ∧ t.out = s.out ∧
    (p ≠ .tInit → t.ts = { s.ts with restart := t.ts.restart, freqCache := t.ts.freqCache })

/-- R228 to R233: the environment's steps write the peripheral and nothing of the block. -/
def Obligations.EnvironmentTouchesOnlyThePeripheral : Prop :=
  ∀ i s t, ((∃ o, i = .envTxComplete o) ∨ (∃ o, i = .envRxComplete o) ∨ (∃ b, i = .envOtherMaster b)) →
    exec i s = .next t →
    t = { s with
      c1 := t.c1, status := t.status, rxLatch := t.rxLatch, pending := t.pending, bus := t.bus }

/-- R12, R40, R33, R172, R182, R171, R6, R131, R203, R227, R229, R230, R232: where a rule gives an agent or
the environment no enabled step, taking its move leaves the whole state alone. -/
def Obligations.NoEnabledStepLeavesTheState : Prop :=
  (∀ i s, handlerRow i = true → s.handlerStopped = true → exec i s = .next s) ∧
  (∀ i u p s, phaseRow i = some (u, p) → ((s.caller u).pc ≠ p ∨ (s.caller u).stopped = true) →
    exec i s = .next s) ∧
  (∀ s u, AtPhase s u .tLock → s.locked = true → exec (.tLock u) s = .next s) ∧
  (∀ s u, AtPhase s u .tWait → s.doneGen ≠ s.gen → exec (.tWait u) s = .next s) ∧
  (∀ s u msgs count, ((s.caller u).pc ≠ .idle ∨ (s.caller u).stopped = true) →
    exec (.call u .thread msgs count) s = .next s) ∧
  (∀ s u msgs count i, s.params.nCallers ≤ u → (s.caller u).pc = .idle →
    i = .call u .thread msgs count ∨ i = .transfer u msgs count → exec i s = .next s) ∧
  (∀ s v, s.params.lateGuard = false → exec (.isrGuard v) s = .next s) ∧
  (∀ s, s.wdtArmed = false → exec .wdtExpire s = .next s) ∧
  (∀ s, ¬IrqPending s → exec .irqDeliver s = .next s) ∧
  (∀ s o, (∀ b, s.pending ≠ .txByte b) → exec (.envTxComplete o) s = .next s) ∧
  (∀ s o, (∀ ack, s.pending ≠ .rxByte ack) → exec (.envRxComplete o) s = .next s) ∧
  (∀ s b, s.c1.getLsbD s.params.layout.mst = true → exec (.envOtherMaster b) s = .next s)

/-! ## Register commands -/

/-- R84, R228: every control command writes exactly its byte, with the bus condition of the change. -/
def Obligations.ControlCommandsWriteTheirByte : Prop :=
  ∀ s, Completes .cmdStart s (Command startFields s) ∧
    Completes .cmdRestart s (Command restartFields s) ∧
    Completes .cmdRxAck s (Command rxAckFields s) ∧ Completes .cmdRxNoack s (Command rxNoackFields s) ∧
    Completes .cmdTx s (Command startFields s) ∧ Completes .cmdStop s (Command stopFields s) ∧
    Completes .cmdIdle s (Command idleFields s) ∧
    ∀ v, Completes (.envBusCondition v) s (C1Write v s)

/-- R85, R61: the status-clear commands clear their flags and nothing else. -/
def Obligations.ClearCommandsClearTheirFlags : Prop :=
  ∀ s, Completes .clrAll s (ClearAll s) ∧ Completes .clrIf s (ClearIf s)

/-- R86, R87, R175, R229: the data and frequency register writes. -/
def Obligations.DataAndFrequencyWrites : Prop :=
  ∀ s (a : Addr7) (d : Byte),
    Completes (.addrW a) s (fun t =>
      DWrite (a.setWidth 8 <<< 1) s t ∧ t.dTx = a.setWidth 8 <<< 1) ∧
    Completes (.addrR a) s (fun t =>
      DWrite ((a.setWidth 8 <<< 1) ||| 1#8) s t ∧ t.dTx = (a.setWidth 8 <<< 1) ||| 1#8) ∧
    Completes (.dataW d) s (fun t => DWrite d s t ∧ t.dTx = d) ∧
    Completes (.freqF d) s (fun t => t = { s with f := d, cmds := s.cmds ++ [.write .f d] }) ∧
    Completes (.freqFlt d) s (fun t => t = { s with flt := d, cmds := s.cmds ++ [.write .flt d] })

/-- R61, R130, R133: reads of S and C1 have no side effect; the value shows in `out`. -/
def Obligations.StatusAndControlReads : Prop :=
  ∀ s, Completes .rdS s (fun t =>
      t = { s with cmds := s.cmds ++ [.read .s s.status], out := .byte s.status }) ∧
    Completes .rdC1 s (fun t => t = { s with cmds := s.cmds ++ [.read .c1 s.c1], out := .byte s.c1 })

/-- R87, R230, R231: a read of D starts a reception in master-receive mode and only there. -/
def Obligations.DataReadsStartReception : Prop :=
  ∀ s, (s.handlerStopped = false →
      Completes .dummyR s (fun t => ∃ u, DRead s u ∧ t = { u with out := .byte s.rxLatch })) ∧
    ((s.c1.getLsbD s.params.layout.tx = true ∨ s.c1.getLsbD s.params.layout.mst = false) →
      Completes .envDReadTx s (fun t =>
        t = { s with cmds := s.cmds ++ [.read .d s.rxLatch], out := .byte s.rxLatch }))

/-- R87, R64: DATA_R stores the received byte unchanged at index `ts.read` of the current message;
outside the buffer the D read stands and the handler takes a BufferOverrun. -/
def Obligations.DataReadStoresTheByte : Prop :=
  ∀ s m k, s.handlerStopped = false → Current s m → s.ts.read = some k →
    (0 ≤ k → k < m.length → Completes .dataR s (fun t =>
      ∃ u w, DRead s u ∧ Stored (m.buffer + k.toNat) s.rxLatch u w ∧
        t = { w with out := .byte s.rxLatch })) ∧
    ((k < 0 ∨ m.length ≤ k) → Completes .dataR s (fun t => ∃ u, DRead s u ∧ t = overrun u))

/-! ## The interrupt handler -/

/-- R131, R130, R227: on a closed record, with the guard, the handler clears the flags and writes
CMD_STOP, and neither the Transfer State nor the completion channel changes. -/
def Obligations.LateInterruptOnlyStops : Prop :=
  ∀ s, s.handlerStopped = false → s.params.lateGuard = true → RecordClosed s →
    (∀ v, Completes (.isrGuard v) s (fun t => ∃ u, ClearAll s u ∧ Command stopFields u t)) ∧
    Completes .isrEntry s (fun t => ∃ u, ClearAll (statusRead s) u ∧ Command stopFields u t) ∧
    (IrqPending s →
      Completes .irqDeliver s (fun t => ∃ u, ClearAll (statusRead s) u ∧ Command stopFields u t))

/-- R132, R235: arbitration loss beats the acknowledgement and the mode, sets ARBITRATION_LOST, stops
and signals, wherever the guard lets the handler pass: on an open record, or with LATE_GUARD = false
on any. -/
def Obligations.ArbitrationLossEndsTheTransaction : Prop :=
  ∀ s, s.handlerStopped = false → s.params.layout.wf = true →
    (∀ v : Vec16, v.getLsbD s.params.layout.arbl = true → Completes (.isrArbl v) s (fun t =>
      ∃ u, ClearAll s u ∧ EndsWith .arbitrationLost u t)) ∧
    (GuardPasses s → s.status.getLsbD s.params.layout.arbl = true →
      Completes .isrEntry s (fun t => ∃ u,
        ClearAll (statusRead s) u ∧ EndsWith .arbitrationLost u t) ∧
      (IrqPending s →
        Completes .irqDeliver s (fun t => ∃ u,
          ClearAll (statusRead s) u ∧ EndsWith .arbitrationLost u t)))

/-- R88, R130, R131, R133, R140: where the guard lets the handler pass (an open record, or with
LATE_GUARD = false any record) and without arbitration loss, the invocation clears IICIF, reads C1 and
runs the row of the dispatch table whose condition holds on its two snapshots. -/
def Obligations.HandlerRunsTheRowOfTheTable : Prop :=
  ∀ s m b, s.handlerStopped = false → s.params.layout.wf = true → Current s m →
    RowTaken b (dispatchVector s.c1 s.status) m s →
    (GuardPasses s → ∀ w, ClearIf (statusRead s) w →
      exec .isrEntry s =
          exec (branchInstr b (dispatchVector s.c1 s.status))
            { w with cmds := w.cmds ++ [.read .c1 s.c1] } ∧
        (IrqPending s → exec .irqDeliver s = exec .isrEntry s)) ∧
    (∀ w, ClearIf s w → exec (.isrClearMode s.status) s =
      exec (branchInstr b (dispatchVector s.c1 s.status))
        { w with cmds := w.cmds ++ [.read .c1 s.c1] }) ∧
    (s.c1.getLsbD s.params.layout.tx = false →
      exec .isrRxDispatch s = exec (branchInstr b (dispatchVector s.c1 s.status)) s)

/-- R88: the pseudocode of R133 to R146 is the table read in its order, fault for fault. -/
def Obligations.BranchesFollowTheDispatchTable : Prop :=
  ∀ (st : Byte) (s : State), s.params.layout.wf = true → st.getLsbD s.params.layout.arbl = false →
    clearMode st s = (do
      change (clearCommand clrIfByte)
      let c ← readC1
      let m ← curMsg
      firstBranch s.params.layout (dispatchVector c st) m dispatchOrder : Act Unit) s

/-- R134: a NAK ends the transaction before any further byte, in every transmit-mode row. -/
def Obligations.NakEndsTheTransaction : Prop :=
  ∀ s, s.handlerStopped = false → s.params.layout.wf = true →
    (∀ v : Vec16, TxNaked s.params.layout v → Completes (.isrTxNak v) s (EndsWith .nak s)) ∧
    (∀ m (st : Byte), Current s m → s.c1.getLsbD s.params.layout.tx = true →
      st.getLsbD s.params.layout.rxak = true →
      Completes (.isrClearMode st) s (fun t => ∃ u, ClearIf s u ∧
        EndsWith .nak { u with cmds := u.cmds ++ [.read .c1 s.c1] } t))

/-- R135: the next byte of a write message is pushed and `ts.written` advances by one; outside the
buffer the handler takes a BufferOverrun. -/
def Obligations.WriteByteIsPushed : Prop :=
  ∀ s (v : Vec16) m w, s.handlerStopped = false → s.params.layout.wf = true → TxAcked s.params.layout v → Current s m →
    m.read = false → s.ts.written = some w → w ≠ m.length →
    (0 ≤ w → w < m.length → Completes (.isrTxWrByte v) s (fun t =>
      ∃ u, DWrite (memRead (m.buffer + w.toNat) s.mem) s u ∧
        t = { u with ts := { u.ts with written := some (w + 1) } })) ∧
    ((w < 0 ∨ m.length < w) → exec (.isrTxWrByte v) s = .next (overrun s))

/-- R136, R137, R160 to R167: a finished write message walks the chain; only a merge pushes a byte,
the first of the new message, and a merge into an empty message is a BufferOverrun. -/
def Obligations.FinishedWriteWalksTheChain : Prop :=
  ∀ s (v : Vec16) msgs count idx n restart, s.handlerStopped = false → s.params.layout.wf = true →
    TxAcked s.params.layout v → Chain s msgs count idx n restart →
    (msgEntry msgs idx.toNat).read = false →
    s.ts.written = some (msgEntry msgs idx.toNat).length →
    ((n ≤ 1 ∨ restart = true) → Completes (.isrTxWrDone v) s (fun t =>
      ∃ o, Walks msgs count idx n restart s t o)) ∧
    (1 < n → restart = false → 0 < (msgEntry msgs (idx + 1).toNat).length →
      Completes (.isrTxWrDone v) s (fun t => ∃ u w,
        Walks msgs count idx n restart s u .advancedMerged ∧
          DWrite (memRead (msgEntry msgs (idx + 1).toNat).buffer s.mem) u w ∧
          t = { w with ts := { w.ts with written := some 1 } })) ∧
    (1 < n → restart = false → (msgEntry msgs (idx + 1).toNat).length ≤ 0 →
      Completes (.isrTxWrDone v) s (fun t => ∃ u,
        Walks msgs count idx n restart s u .advancedMerged ∧ t = overrun u))

/-- R137: the first byte of the message the walker made current, with no address cycle. -/
def Obligations.MergedWritePushesItsFirstByte : Prop :=
  ∀ s (v : Vec16) m, s.handlerStopped = false → s.params.layout.wf = true → TxAcked s.params.layout v → Current s m →
    (0 < m.length → Completes (.isrTxWrMerge v) s (fun t =>
      ∃ u, DWrite (memRead m.buffer s.mem) s u ∧
        t = { u with ts := { u.ts with written := some 1 } })) ∧
    (m.length ≤ 0 → exec (.isrTxWrMerge v) s = .next (overrun s))

/-- R138, R139: the set-up of a read: the acknowledgement mode first, then the dummy read. -/
def Obligations.ReadSetUpStagesTheAcknowledgement : Prop :=
  ∀ s (v : Vec16) m, s.handlerStopped = false → s.params.layout.wf = true → TxAcked s.params.layout v → Current s m →
    m.read = true →
    (m.length = 1 → s.ts.restart = some true →
      Completes (.isrTxRdNoack v) s (fun t => (∃ u, Command rxNoackFields s u ∧ DRead u t) ∧
        t.pending = .rxByte false)) ∧
    ((m.length ≠ 1 ∨ s.ts.restart = some false) →
      Completes (.isrTxRdAck v) s (fun t => (∃ u, Command rxAckFields s u ∧ DRead u t) ∧
        t.pending = .rxByte true))

/-- R141, R144: the last byte before a restart or the STOP: transmit mode first, so the read starts no
further reception; then the byte is stored and the chain walked. -/
def Obligations.LastByteBeforeRestart : Prop :=
  ∀ s (v : Vec16) msgs count idx n, s.handlerStopped = false → s.params.layout.wf = true → RxMode s.params.layout v →
    Chain s msgs count idx n true →
    s.ts.read = some ((msgEntry msgs idx.toNat).length - 1) → 0 < (msgEntry msgs idx.toNat).length →
    Completes (.isrRxLastRestart v) s (fun t => ∃ u w o,
      Command startFields s u ∧ w.pending = u.pending ∧
        Consumes (msgEntry msgs idx.toNat) ((msgEntry msgs idx.toNat).length - 1) u w ∧
        Walks msgs count idx n true w t o)

/-- R142, R143, R144: the last byte before a merged message: no acknowledgement is staged for a next
message of length 1, the mode is left alone for any other; with no next message the handler takes a
NoNextMessage and stops. ISR_RX_LAST_TAIL, the tail that these rows and R141 share, stores the byte and
walks the chain whatever the restart flag and the index; outside the buffer it is a BufferOverrun. Two
clauses are the model's choice: that these rows run on their own (log entry 17), and that a next message
of length 1 is not acknowledged where it is not the last of its group either, as R142 says against the
last sentence of R147 (log entry 22). -/
def Obligations.LastByteBeforeMerge : Prop :=
  (∀ s (v : Vec16) msgs count idx n, s.handlerStopped = false → s.params.layout.wf = true →
    RxMode s.params.layout v → Chain s msgs count idx n false →
    s.ts.read = some ((msgEntry msgs idx.toNat).length - 1) → 0 < (msgEntry msgs idx.toNat).length →
    (idx + 1 < count → (msgEntry msgs (idx + 1).toNat).length = 1 →
      Completes (.isrRxLastMerge1 v) s (fun t => ∃ u w o, Command rxNoackFields s u ∧
        Consumes (msgEntry msgs idx.toNat) ((msgEntry msgs idx.toNat).length - 1) u w ∧
        Walks msgs count idx n false w t o)) ∧
    (idx + 1 < count → (msgEntry msgs (idx + 1).toNat).length ≠ 1 →
      Completes (.isrRxLastMerge v) s (fun t => ∃ w o,
        Consumes (msgEntry msgs idx.toNat) ((msgEntry msgs idx.toNat).length - 1) s w ∧
        Walks msgs count idx n false w t o)) ∧
    (count ≤ idx + 1 → ∀ i, i = .isrRxLastMerge1 v ∨ i = .isrRxLastMerge v ∨ i = .isrRxDispatch →
      exec i s = .next { s with
        faults := { s.faults with noNextMessage := true }, handlerStopped := true })) ∧
  ∀ s msgs count idx n restart k, s.handlerStopped = false → Chain s msgs count idx n restart →
    s.ts.read = some k →
    (0 ≤ k → k < (msgEntry msgs idx.toNat).length → Completes .isrRxLastTail s (fun t => ∃ w o,
      Consumes (msgEntry msgs idx.toNat) k s w ∧ Walks msgs count idx n restart w t o)) ∧
    ((k < 0 ∨ (msgEntry msgs idx.toNat).length ≤ k) → Completes .isrRxLastTail s (fun t =>
      ∃ u, DRead s u ∧ t = overrun u))

/-- R145, R146, R140: every other received byte: the second-to-last byte before a restart stages the
NAK of the last one; any other is stored under the mode that C1 has, and one with no room (a zero-length
read) is a BufferOverrun, the D read before it standing. -/
def Obligations.OtherReceivedBytesAreStored : Prop :=
  ∀ s (v : Vec16) m k, s.handlerStopped = false → s.params.layout.wf = true → RxMode s.params.layout v → Current s m →
    s.ts.read = some k → 0 ≤ k →
    (k = m.length - 2 → s.ts.restart = some true →
      Completes (.isrRxPenultRestart v) s (fun t =>
        (∃ u, Command rxNoackFields s u ∧ Consumes m k u t) ∧ t.pending = .rxByte false)) ∧
    (k < m.length - 1 → (k ≠ m.length - 2 ∨ s.ts.restart = some false) →
      Completes (.isrRxByte v) s (Consumes m k s) ∧ Completes .isrRxDispatch s (Consumes m k s)) ∧
    (m.length ≤ k →
      Completes (.isrRxByte v) s (fun t => ∃ u, DRead s u ∧ t = overrun u) ∧
      Completes .isrRxDispatch s (fun t => ∃ u, DRead s u ∧ t = overrun u))

/-! ## The walker -/

/-- R160 to R167: the walker's three outcomes. -/
def Obligations.WalkerHasThreeOutcomes : Prop :=
  ∀ s msgs count idx n restart, s.handlerStopped = false → Chain s msgs count idx n restart →
    Completes .nextmsg s (fun t => ∃ u o, Walks msgs count idx n restart s u o ∧
      t = { u with out := .outcome o })

/-- R161, R162, R163, R164: the two advances, the recomputation of the restart flag (at the last message
too, where it is true), and the end of the chain, which leaves the cursors. -/
def Obligations.WalkerAdvances : Prop :=
  (∀ s msgs count idx, s.handlerStopped = false → s.ts.msgs = some msgs → s.ts.count = some count →
    s.ts.idx = some idx → 0 ≤ idx → ∀ ts,
    ts = { s.ts with
      idx := some (idx + 1)
      written := some 0
      read := some 0
      restart := match s.params.restartMode with
        | .perTransition => some (restartValue msgs count (idx + 1))
        | .perStep => s.ts.restart } →
    Completes .advanceSignal s (fun t =>
      t = { s with ts := ts, doneGen := s.gen, out := .outcome .advancedSignalled }) ∧
    Completes .advanceMerged s (fun t => t = { s with ts := ts, out := .outcome .advancedMerged }) ∧
    (s.params.restartMode = .perTransition → Completes .restartRecompute s (fun t =>
      t = { s with ts := { s.ts with restart := some (restartValue msgs count idx) } }))) ∧
  ∀ s, s.handlerStopped = false →
    (s.params.restartMode = .perStep → Completes .restartRecompute s (fun t => t = s)) ∧
    Completes .terminate s (fun t => ∃ u, Command stopFields s u ∧
      t = { u with doneGen := s.gen, out := .outcome .terminated })

/-- R165, R166: STOP writes CMD_STOP and signals; Signal makes `done_gen` the generation. -/
def Obligations.StopWritesAndSignals : Prop :=
  ∀ s, (s.handlerStopped = false →
      Completes .stop s (fun t => ∃ u, Command stopFields s u ∧ t = { u with doneGen := s.gen })) ∧
    Completes .signal s (fun t => t = { s with doneGen := s.gen })

/-! ## The Coordinator -/

/-- R179: the merge test writes nothing, and each of its four conditions is needed; an index before
the chain is the fault of Msg(i). -/
def Obligations.MergeTestNeedsEveryCondition : Prop :=
  ∀ s r i msgs count, stoppedBy r s = false → s.ts.msgs = some msgs → s.ts.count = some count →
    ((0 ≤ i ∨ count ≤ i + 1) →
      Completes (.restartFor r i) s (fun t => ∃ b, t = { s with out := .bool b } ∧
        (b = false ↔ i + 1 < count ∧
          (msgEntry msgs (i + 1).toNat).norestart = true ∧
          (msgEntry msgs (i + 1).toNat).addr = (msgEntry msgs i.toNat).addr ∧
          (msgEntry msgs (i + 1).toNat).frequency = (msgEntry msgs i.toNat).frequency ∧
          (msgEntry msgs (i + 1).toNat).read = (msgEntry msgs i.toNat).read))) ∧
    (i < 0 → i + 1 < count →
      exec (.restartFor r i) s = .next (takeFault r .noNextMessage s))

/-- R171, R170, R188, R41, R225: a thread at IDLE, one of the N_CALLERS, enters the call; from interrupt
or timer context the call is refused in every state; the reset operation returns 0 and touches nothing of
the block. That no thread's label counts for a refused call is the model's reading (log entry 11). -/
def Obligations.CallEntersOrIsRefused : Prop :=
  ∀ s u msgs count,
    (AtPhase s u .idle → u < s.params.nCallers →
      ∀ i, i = .call u .thread msgs count ∨ i = .transfer u msgs count → Completes i s (fun t =>
        CallerBecomes s u
            { s.caller u with pc := .tLock, msgs := msgs, count := count } t ∧
          t = { s with callers := t.callers })) ∧
    (∀ ctx, ctx ≠ .thread → exec (.call u ctx msgs count) s = .next { s with refused := true }) ∧
    Completes .reset s (fun t => t = { s with out := .int 0 })

/-- R170, R110, R11: a transfer in progress takes the phase its thread is at, and so does Bus
Acquisition. -/
def Obligations.OperationsRunTheirPhases : Prop :=
  ∀ i u p s msgs count, phaseRow i = some (u, p) → (s.caller u).pc = p →
    Completes (.transfer u msgs count) s (fun t => exec i s = .next t) ∧
    ((p = .aTest ∨ p = .aRestart ∨ p = .aWaitfree ∨ p = .aStart ∨ p = .aAddr) →
      Completes (.acquire u) s (fun t => exec i s = .next t))

/-- R172, R72: the lock is test and set in one step, and a thread that finds it taken does not enter. -/
def Obligations.LockIsTestAndSet : Prop :=
  ∀ s u, AtPhase s u .tLock →
    (s.locked = false → Completes (.tLock u) s (fun t =>
      CallerBecomes s u { s.caller u with pc := .tInit } t ∧
        t = { s with locked := true, callers := t.callers })) ∧
    (s.locked = true → ∀ t, exec (.tLock u) s = .next t →
      t.locked = true ∧ ∀ v, t.caller v = s.caller v)

/-- R173, R91: T_INIT refuses an unsupported message, then faults on an empty chain, then resets every
field of the record but the restart flag and the frequency cache. -/
def Obligations.InitResetsTheRecord : Prop :=
  ∀ s u, AtPhase s u .tInit →
    ((∃ k : Nat, (k : Int) < (s.caller u).count ∧
        ((msgEntry (s.caller u).msgs k).length < 0 ∨
          (msgEntry (s.caller u).msgs k).otherFlag = true ∨
          (msgEntry (s.caller u).msgs k).extended = true)) →
      exec (.tInit u) s = .next { s with refused := true }) ∧
    ((s.caller u).count < 1 → Completes (.tInit u) s (fun t =>
      CallerBecomes s u { s.caller u with stopped := true } t ∧
        t = { s with faults := { s.faults with emptyChain := true }, callers := t.callers })) ∧
    (1 ≤ (s.caller u).count →
      (∀ k : Nat, (k : Int) < (s.caller u).count →
        0 ≤ (msgEntry (s.caller u).msgs k).length ∧
          (msgEntry (s.caller u).msgs k).otherFlag = false ∧
          (msgEntry (s.caller u).msgs k).extended = false) →
      Completes (.tInit u) s (fun t =>
        CallerBecomes s u { s.caller u with pc := .tFreq } t ∧
          t = { s with
            ts :=
              { msgs := some (s.caller u).msgs, count := some (s.caller u).count, idx := some 0
                nmsg := some (s.caller u).count, written := some 0, read := some 0
                status := some .ok, restart := s.ts.restart, freqCache := s.ts.freqCache }
            callers := t.callers }))

/-- R174, R175, R187: the frequency of message 0 is programmed, and only when the cache differs. -/
def Obligations.FrequencyIsProgrammedWhenItDiffers : Prop :=
  ∀ s hz,
    (s.ts.freqCache = some hz → exec (.setFrequency hz) s = .next s) ∧
    (s.ts.freqCache ≠ some hz → Completes (.setFrequency hz) s (fun t =>
      t = { s with
        f := (Config.freqTable hz).1
        flt := (Config.freqTable hz).2
        cmds := s.cmds ++ [.write .f (Config.freqTable hz).1, .write .flt (Config.freqTable hz).2]
        ts := { s.ts with freqCache := some hz } })) ∧
    (∀ u msgs count, AtPhase s u .tFreq → s.ts.msgs = some msgs → s.ts.count = some count →
      0 < count → hz = (msgEntry msgs 0).frequency →
      Completes (.tFreq u) s (fun t => ∃ w, exec (.setFrequency hz) s = .next w ∧
        CallerBecomes s u { s.caller u with pc := .tClear } t ∧ t = { w with callers := t.callers }))

/-- R176, R177: T_CLEAR clears the stale flags; T_LOOP goes on exactly while a message remains and the
status is OK. -/
def Obligations.ClearThenLoop : Prop :=
  ∀ s u,
    (AtPhase s u .tClear → Completes (.tClear u) s (fun t =>
      CallerBecomes s u { s.caller u with pc := .tLoop } t ∧
        ∃ w, ClearAll s w ∧ t = { w with callers := t.callers })) ∧
    (AtPhase s u .tLoop → ∀ n st, s.ts.nmsg = some n → s.ts.status = some st →
      Completes (.tLoop u) s (fun t =>
        CallerBecomes s u
            { s.caller u with pc := if 0 < n ∧ st = .ok then .tStep else .tExit } t ∧
          t = { s with callers := t.callers }))

/-- R178, R180: T_STEP opens a new generation and computes the restart flag; T_ACQ runs Bus Acquisition
unless the message is flagged `nostart`. -/
def Obligations.StepOpensAGeneration : Prop :=
  ∀ s u msgs count idx, s.ts.msgs = some msgs → s.ts.count = some count → s.ts.idx = some idx →
    0 ≤ idx → idx < count →
    (AtPhase s u .tStep → Completes (.tStep u) s (fun t =>
      CallerBecomes s u { s.caller u with pc := .tAcq } t ∧
        t = { s with
          gen := s.gen + 1
          ts := { s.ts with restart := some (restartValue msgs count idx) }
          callers := t.callers })) ∧
    (AtPhase s u .tAcq → Completes (.tAcq u) s (fun t =>
      CallerBecomes s u
          { s.caller u with
            pc := if (msgEntry msgs idx.toNat).nostart = true then .tArm else .aTest } t ∧
        t = { s with callers := t.callers }))

/-- R181, R182, R183: the watchdog is armed with the generation, the wait ends exactly when the step is
complete, and the watchdog is cancelled. -/
def Obligations.WaitIsTimedAndHolds : Prop :=
  ∀ s u,
    (AtPhase s u .tArm → Completes (.tArm u) s (fun t =>
      CallerBecomes s u { s.caller u with pc := .tWait } t ∧
        t = { s with wdtArmed := true, wdtCtx := s.gen, callers := t.callers })) ∧
    (AtPhase s u .tWait →
      (s.doneGen = s.gen → Completes (.tWait u) s (fun t =>
        CallerBecomes s u { s.caller u with pc := .tCancel } t ∧
          t = { s with callers := t.callers })) ∧
      (s.doneGen ≠ s.gen → ∀ t, exec (.tWait u) s = .next t → (t.caller u).pc = .tWait)) ∧
    (AtPhase s u .tCancel → Completes (.tCancel u) s (fun t =>
      CallerBecomes s u { s.caller u with pc := .tLoop } t ∧
        t = { s with wdtArmed := false, callers := t.callers }))

/-- R184, R185, R186, R190: the exit disables the interrupt, latches 0 or -EIO, then releases the lock
and returns it. -/
def Obligations.ExitReturnsTheResult : Prop :=
  ∀ s u,
    (AtPhase s u .tExit → Completes (.tExit u) s (fun t =>
      CallerBecomes s u { s.caller u with pc := .tResult } t ∧
        ∃ w, Command idleFields s w ∧ t = { w with callers := t.callers })) ∧
    (AtPhase s u .tResult → ∀ st, s.ts.status = some st → Completes (.tResult u) s (fun t =>
      CallerBecomes s u
          { s.caller u with
            pc := .tUnlock, result := if st = .ok then 0 else -(s.params.eio : Int) } t ∧
        t = { s with callers := t.callers })) ∧
    (AtPhase s u .tUnlock → Completes (.tUnlock u) s (fun t =>
      CallerBecomes s u { s.caller u with pc := .idle } t ∧
        t = { s with
          locked := false
          returns := s.returns ++ [(u, (s.caller u).result)]
          callers := t.callers }))

/-- R111 to R115: the phases of Bus Acquisition. -/
def Obligations.AcquisitionClaimsTheBus : Prop :=
  ∀ s u,
    (AtPhase s u .aTest → Completes (.aTest u) s (fun t =>
      CallerBecomes s u
          { s.caller u with
            mst := s.c1.getLsbD s.params.layout.mst
            pc := if s.c1.getLsbD s.params.layout.mst = true then .aRestart else .aWaitfree } t ∧
        t = { s with cmds := s.cmds ++ [.read .c1 s.c1], callers := t.callers })) ∧
    (AtPhase s u .aRestart → Completes (.aRestart u) s (fun t =>
      CallerBecomes s u { s.caller u with pc := .aAddr } t ∧
        ∃ w, Command restartFields s w ∧ t = { w with callers := t.callers })) ∧
    (AtPhase s u .aWaitfree → Completes (.aWaitfree u) s (fun t =>
      CallerBecomes s u
          { s.caller u with
            pc := if s.status.getLsbD s.params.layout.busy = true then .aWaitfree else .aStart } t ∧
        t = { s with cmds := s.cmds ++ [.read .s s.status], callers := t.callers })) ∧
    (AtPhase s u .aStart → Completes (.aStart u) s (fun t =>
      CallerBecomes s u { s.caller u with pc := .aAddr } t ∧
        ∃ w, Command startFields s w ∧ t = { w with callers := t.callers })) ∧
    (AtPhase s u .aAddr → ∀ m, Current s m →
      Completes (.aAddr u) s (fun t =>
        CallerBecomes s u { s.caller u with pc := .tArm } t ∧
          ∃ w, DWrite ((m.addr.setWidth 8 <<< 1) ||| (if m.read then 1#8 else 0#8)) s w ∧
            t = { w with callers := t.callers }))

/-! ## The watchdog -/

/-- R201 to R205: arming, cancelling, the one-shot expiry, and the timeout handler, which acts only on
the open step it was armed for. -/
def Obligations.TimeoutActsOnlyOnTheOpenStep : Prop :=
  ∀ s g d,
    Completes (.wdtArm d g) s (fun t => t = { s with wdtArmed := true, wdtCtx := g }) ∧
    Completes .wdtCancel s (fun t => t = { s with wdtArmed := false }) ∧
    (g = s.gen → s.doneGen ≠ s.gen → Completes (.wdtHandler g) s (fun t =>
      t = { s with ts := { s.ts with status := some .timeout }, doneGen := s.gen })) ∧
    ((g ≠ s.gen ∨ s.doneGen = s.gen) → exec (.wdtHandler g) s = .next s) ∧
    (s.wdtArmed = true →
      (s.wdtCtx = s.gen → s.doneGen ≠ s.gen → Completes .wdtExpire s (fun t =>
        t = { s with
          wdtArmed := false, ts := { s.ts with status := some .timeout }, doneGen := s.gen })) ∧
      ((s.wdtCtx ≠ s.gen ∨ s.doneGen = s.gen) → Completes .wdtExpire s (fun t =>
        t = { s with wdtArmed := false })))

/-! ## The environment -/

/-- R229: the completion of a transmitted byte, by the environment's choice. -/
def Obligations.TransmissionCompletes : Prop :=
  ∀ s b, s.pending = .txByte b →
    Completes (.envTxComplete .ack) s (fun t =>
      t = { s with
        bus := s.bus ++ [.sent b true], pending := .none
        status := setBitAt (clearBitAt s.status s.params.layout.rxak) s.params.layout.iicif }) ∧
    Completes (.envTxComplete .nak) s (fun t =>
      t = { s with
        bus := s.bus ++ [.sent b false], pending := .none
        status := setBitAt (setBitAt s.status s.params.layout.rxak) s.params.layout.iicif }) ∧
    Completes (.envTxComplete .lost) s (Loses s)

/-- R230: the completion of a reception, with the acknowledgement fixed when it started. -/
def Obligations.ReceptionCompletes : Prop :=
  ∀ s ack, s.pending = .rxByte ack →
    (∀ v, Completes (.envRxComplete (.byte v)) s (fun t =>
      t = { s with
        rxLatch := v, bus := s.bus ++ [.received v ack], pending := .none
        status := setBitAt s.status s.params.layout.iicif })) ∧
    Completes (.envRxComplete .lost) s (Loses s)

/-- R232, R233: while the block is not master, another master sets and clears S.BUSY. -/
def Obligations.OtherMastersOnlyMoveBusy : Prop :=
  ∀ s, s.c1.getLsbD s.params.layout.mst = false →
    Completes (.envOtherMaster true) s (fun t =>
      t = { s with status := setBitAt s.status s.params.layout.busy }) ∧
    Completes (.envOtherMaster false) s (fun t =>
      t = { s with status := clearBitAt s.status s.params.layout.busy })

/-! ## Caller memory -/

/-- R64, R65, R44: the bound checks of the buffer and descriptor primitives, and what they return. That
an index before the chain reads no count is the model's choice (log entry 13). -/
def Obligations.PrimitivesCheckTheirBounds : Prop :=
  ∀ s r m k v msgs count, stoppedBy r s = false →
    (0 ≤ k → k < m.length →
      Completes (.bufReadWrite r m k .read) s (fun t =>
        t = { s with out := .byte (memRead (m.buffer + k.toNat) s.mem) }) ∧
      Completes (.bufReadWrite r m k (.write v)) s (Stored (m.buffer + k.toNat) v s)) ∧
    ((k < 0 ∨ m.length ≤ k) → ∀ op,
      exec (.bufReadWrite r m k op) s = .next (takeFault r .bufferOverrun s)) ∧
    (s.ts.msgs = some msgs → s.ts.count = some count →
      (0 ≤ k → k < count → Completes (.msg r k) s (fun t =>
        t = { s with out := .message (msgEntry msgs k.toNat) })) ∧
      (0 ≤ k → count ≤ k → exec (.msg r k) s =
        .next (takeFault r (if k = 0 then .emptyChain else .noNextMessage) s))) ∧
    (k < 0 → exec (.msg r k) s = .next (takeFault r .noNextMessage s)) ∧
    (0 ≤ k → s.ts.count = none → exec (.msg r k) s = .next (takeFault r .unsetRead s)) ∧
    (0 ≤ k → k < count → s.ts.count = some count → s.ts.msgs = none →
      exec (.msg r k) s = .next (takeFault r .unsetRead s))
end

