-- ==== Sys2Proof/Laws/State.lean ====
section
/-! SUPPORT. One lemma per field for each shared state update, so that no later proof unfolds a record
update: the field written, or the field left alone. -/

namespace Sys2Proof.Machine

/-! ### writeC1 -/

@[simp] theorem writeC1_ts (v : Byte) (s : State) : (writeC1 v s).ts = s.ts := rfl
@[simp] theorem writeC1_gen (v : Byte) (s : State) : (writeC1 v s).gen = s.gen := rfl
@[simp] theorem writeC1_doneGen (v : Byte) (s : State) : (writeC1 v s).doneGen = s.doneGen := rfl
@[simp] theorem writeC1_locked (v : Byte) (s : State) : (writeC1 v s).locked = s.locked := rfl
@[simp] theorem writeC1_wdtArmed (v : Byte) (s : State) : (writeC1 v s).wdtArmed = s.wdtArmed := rfl
@[simp] theorem writeC1_wdtCtx (v : Byte) (s : State) : (writeC1 v s).wdtCtx = s.wdtCtx := rfl
@[simp] theorem writeC1_callers (v : Byte) (s : State) : (writeC1 v s).callers = s.callers := rfl
@[simp] theorem writeC1_handlerStopped (v : Byte) (s : State) : (writeC1 v s).handlerStopped = s.handlerStopped :=
  rfl
@[simp] theorem writeC1_c1 (v : Byte) (s : State) : (writeC1 v s).c1 = v := rfl
@[simp] theorem writeC1_status (v : Byte) (s : State) : (writeC1 v s).status = busyAfter s.params.layout s.c1 v s.status :=
  rfl
@[simp] theorem writeC1_dTx (v : Byte) (s : State) : (writeC1 v s).dTx = s.dTx := rfl
@[simp] theorem writeC1_rxLatch (v : Byte) (s : State) : (writeC1 v s).rxLatch = s.rxLatch := rfl
@[simp] theorem writeC1_f (v : Byte) (s : State) : (writeC1 v s).f = s.f := rfl
@[simp] theorem writeC1_flt (v : Byte) (s : State) : (writeC1 v s).flt = s.flt := rfl
@[simp] theorem writeC1_pending (v : Byte) (s : State) : (writeC1 v s).pending = pendingAfter s.params.layout s.c1 v s.pending :=
  rfl
@[simp] theorem writeC1_bus (v : Byte) (s : State) : (writeC1 v s).bus = s.bus ++ busCondition s.params.layout s.c1 v :=
  rfl
@[simp] theorem writeC1_cmds (v : Byte) (s : State) : (writeC1 v s).cmds = s.cmds ++ [.write .c1 v] :=
  rfl
@[simp] theorem writeC1_returns (v : Byte) (s : State) : (writeC1 v s).returns = s.returns := rfl
@[simp] theorem writeC1_faults (v : Byte) (s : State) : (writeC1 v s).faults = s.faults := rfl
@[simp] theorem writeC1_refused (v : Byte) (s : State) : (writeC1 v s).refused = s.refused := rfl
@[simp] theorem writeC1_mem (v : Byte) (s : State) : (writeC1 v s).mem = s.mem := rfl
@[simp] theorem writeC1_params (v : Byte) (s : State) : (writeC1 v s).params = s.params := rfl
@[simp] theorem writeC1_out (v : Byte) (s : State) : (writeC1 v s).out = s.out := rfl
@[simp] theorem writeC1_agenda (v : Byte) (s : State) : (writeC1 v s).agenda = s.agenda := rfl
@[simp] theorem writeC1_tick (v : Byte) (s : State) : (writeC1 v s).tick = s.tick := rfl

/-! ### writeS -/

@[simp] theorem writeS_ts (v : Byte) (s : State) : (writeS v s).ts = s.ts := rfl
@[simp] theorem writeS_gen (v : Byte) (s : State) : (writeS v s).gen = s.gen := rfl
@[simp] theorem writeS_doneGen (v : Byte) (s : State) : (writeS v s).doneGen = s.doneGen := rfl
@[simp] theorem writeS_locked (v : Byte) (s : State) : (writeS v s).locked = s.locked := rfl
@[simp] theorem writeS_wdtArmed (v : Byte) (s : State) : (writeS v s).wdtArmed = s.wdtArmed := rfl
@[simp] theorem writeS_wdtCtx (v : Byte) (s : State) : (writeS v s).wdtCtx = s.wdtCtx := rfl
@[simp] theorem writeS_callers (v : Byte) (s : State) : (writeS v s).callers = s.callers := rfl
@[simp] theorem writeS_handlerStopped (v : Byte) (s : State) : (writeS v s).handlerStopped = s.handlerStopped :=
  rfl
@[simp] theorem writeS_c1 (v : Byte) (s : State) : (writeS v s).c1 = s.c1 := rfl
@[simp] theorem writeS_status (v : Byte) (s : State) : (writeS v s).status = clearedStatus s.params.layout s.status v :=
  rfl
@[simp] theorem writeS_dTx (v : Byte) (s : State) : (writeS v s).dTx = s.dTx := rfl
@[simp] theorem writeS_rxLatch (v : Byte) (s : State) : (writeS v s).rxLatch = s.rxLatch := rfl
@[simp] theorem writeS_f (v : Byte) (s : State) : (writeS v s).f = s.f := rfl
@[simp] theorem writeS_flt (v : Byte) (s : State) : (writeS v s).flt = s.flt := rfl
@[simp] theorem writeS_pending (v : Byte) (s : State) : (writeS v s).pending = s.pending := rfl
@[simp] theorem writeS_bus (v : Byte) (s : State) : (writeS v s).bus = s.bus := rfl
@[simp] theorem writeS_cmds (v : Byte) (s : State) : (writeS v s).cmds = s.cmds ++ [.write .s v] :=
  rfl
@[simp] theorem writeS_returns (v : Byte) (s : State) : (writeS v s).returns = s.returns := rfl
@[simp] theorem writeS_faults (v : Byte) (s : State) : (writeS v s).faults = s.faults := rfl
@[simp] theorem writeS_refused (v : Byte) (s : State) : (writeS v s).refused = s.refused := rfl
@[simp] theorem writeS_mem (v : Byte) (s : State) : (writeS v s).mem = s.mem := rfl
@[simp] theorem writeS_params (v : Byte) (s : State) : (writeS v s).params = s.params := rfl
@[simp] theorem writeS_out (v : Byte) (s : State) : (writeS v s).out = s.out := rfl
@[simp] theorem writeS_agenda (v : Byte) (s : State) : (writeS v s).agenda = s.agenda := rfl
@[simp] theorem writeS_tick (v : Byte) (s : State) : (writeS v s).tick = s.tick := rfl

/-! ### writeD -/

@[simp] theorem writeD_ts (v : Byte) (s : State) : (writeD v s).ts = s.ts := rfl
@[simp] theorem writeD_gen (v : Byte) (s : State) : (writeD v s).gen = s.gen := rfl
@[simp] theorem writeD_doneGen (v : Byte) (s : State) : (writeD v s).doneGen = s.doneGen := rfl
@[simp] theorem writeD_locked (v : Byte) (s : State) : (writeD v s).locked = s.locked := rfl
@[simp] theorem writeD_wdtArmed (v : Byte) (s : State) : (writeD v s).wdtArmed = s.wdtArmed := rfl
@[simp] theorem writeD_wdtCtx (v : Byte) (s : State) : (writeD v s).wdtCtx = s.wdtCtx := rfl
@[simp] theorem writeD_callers (v : Byte) (s : State) : (writeD v s).callers = s.callers := rfl
@[simp] theorem writeD_handlerStopped (v : Byte) (s : State) : (writeD v s).handlerStopped = s.handlerStopped :=
  rfl
@[simp] theorem writeD_c1 (v : Byte) (s : State) : (writeD v s).c1 = s.c1 := rfl
@[simp] theorem writeD_status (v : Byte) (s : State) : (writeD v s).status = s.status := rfl
@[simp] theorem writeD_dTx (v : Byte) (s : State) : (writeD v s).dTx = v := rfl
@[simp] theorem writeD_rxLatch (v : Byte) (s : State) : (writeD v s).rxLatch = s.rxLatch := rfl
@[simp] theorem writeD_f (v : Byte) (s : State) : (writeD v s).f = s.f := rfl
@[simp] theorem writeD_flt (v : Byte) (s : State) : (writeD v s).flt = s.flt := rfl
@[simp] theorem writeD_pending (v : Byte) (s : State) : (writeD v s).pending = if c1Mst s.params.layout s.c1 && c1Tx s.params.layout s.c1 then .txByte v else s.pending :=
  rfl
@[simp] theorem writeD_bus (v : Byte) (s : State) : (writeD v s).bus = s.bus := rfl
@[simp] theorem writeD_cmds (v : Byte) (s : State) : (writeD v s).cmds = s.cmds ++ [.write .d v] :=
  rfl
@[simp] theorem writeD_returns (v : Byte) (s : State) : (writeD v s).returns = s.returns := rfl
@[simp] theorem writeD_faults (v : Byte) (s : State) : (writeD v s).faults = s.faults := rfl
@[simp] theorem writeD_refused (v : Byte) (s : State) : (writeD v s).refused = s.refused := rfl
@[simp] theorem writeD_mem (v : Byte) (s : State) : (writeD v s).mem = s.mem := rfl
@[simp] theorem writeD_params (v : Byte) (s : State) : (writeD v s).params = s.params := rfl
@[simp] theorem writeD_out (v : Byte) (s : State) : (writeD v s).out = s.out := rfl
@[simp] theorem writeD_agenda (v : Byte) (s : State) : (writeD v s).agenda = s.agenda := rfl
@[simp] theorem writeD_tick (v : Byte) (s : State) : (writeD v s).tick = s.tick := rfl

/-! ### writeF -/

@[simp] theorem writeF_ts (v : Byte) (s : State) : (writeF v s).ts = s.ts := rfl
@[simp] theorem writeF_gen (v : Byte) (s : State) : (writeF v s).gen = s.gen := rfl
@[simp] theorem writeF_doneGen (v : Byte) (s : State) : (writeF v s).doneGen = s.doneGen := rfl
@[simp] theorem writeF_locked (v : Byte) (s : State) : (writeF v s).locked = s.locked := rfl
@[simp] theorem writeF_wdtArmed (v : Byte) (s : State) : (writeF v s).wdtArmed = s.wdtArmed := rfl
@[simp] theorem writeF_wdtCtx (v : Byte) (s : State) : (writeF v s).wdtCtx = s.wdtCtx := rfl
@[simp] theorem writeF_callers (v : Byte) (s : State) : (writeF v s).callers = s.callers := rfl
@[simp] theorem writeF_handlerStopped (v : Byte) (s : State) : (writeF v s).handlerStopped = s.handlerStopped :=
  rfl
@[simp] theorem writeF_c1 (v : Byte) (s : State) : (writeF v s).c1 = s.c1 := rfl
@[simp] theorem writeF_status (v : Byte) (s : State) : (writeF v s).status = s.status := rfl
@[simp] theorem writeF_dTx (v : Byte) (s : State) : (writeF v s).dTx = s.dTx := rfl
@[simp] theorem writeF_rxLatch (v : Byte) (s : State) : (writeF v s).rxLatch = s.rxLatch := rfl
@[simp] theorem writeF_f (v : Byte) (s : State) : (writeF v s).f = v := rfl
@[simp] theorem writeF_flt (v : Byte) (s : State) : (writeF v s).flt = s.flt := rfl
@[simp] theorem writeF_pending (v : Byte) (s : State) : (writeF v s).pending = s.pending := rfl
@[simp] theorem writeF_bus (v : Byte) (s : State) : (writeF v s).bus = s.bus := rfl
@[simp] theorem writeF_cmds (v : Byte) (s : State) : (writeF v s).cmds = s.cmds ++ [.write .f v] :=
  rfl
@[simp] theorem writeF_returns (v : Byte) (s : State) : (writeF v s).returns = s.returns := rfl
@[simp] theorem writeF_faults (v : Byte) (s : State) : (writeF v s).faults = s.faults := rfl
@[simp] theorem writeF_refused (v : Byte) (s : State) : (writeF v s).refused = s.refused := rfl
@[simp] theorem writeF_mem (v : Byte) (s : State) : (writeF v s).mem = s.mem := rfl
@[simp] theorem writeF_params (v : Byte) (s : State) : (writeF v s).params = s.params := rfl
@[simp] theorem writeF_out (v : Byte) (s : State) : (writeF v s).out = s.out := rfl
@[simp] theorem writeF_agenda (v : Byte) (s : State) : (writeF v s).agenda = s.agenda := rfl
@[simp] theorem writeF_tick (v : Byte) (s : State) : (writeF v s).tick = s.tick := rfl

/-! ### writeFlt -/

@[simp] theorem writeFlt_ts (v : Byte) (s : State) : (writeFlt v s).ts = s.ts := rfl
@[simp] theorem writeFlt_gen (v : Byte) (s : State) : (writeFlt v s).gen = s.gen := rfl
@[simp] theorem writeFlt_doneGen (v : Byte) (s : State) : (writeFlt v s).doneGen = s.doneGen := rfl
@[simp] theorem writeFlt_locked (v : Byte) (s : State) : (writeFlt v s).locked = s.locked := rfl
@[simp] theorem writeFlt_wdtArmed (v : Byte) (s : State) : (writeFlt v s).wdtArmed = s.wdtArmed :=
  rfl
@[simp] theorem writeFlt_wdtCtx (v : Byte) (s : State) : (writeFlt v s).wdtCtx = s.wdtCtx := rfl
@[simp] theorem writeFlt_callers (v : Byte) (s : State) : (writeFlt v s).callers = s.callers := rfl
@[simp] theorem writeFlt_handlerStopped (v : Byte) (s : State) : (writeFlt v s).handlerStopped = s.handlerStopped :=
  rfl
@[simp] theorem writeFlt_c1 (v : Byte) (s : State) : (writeFlt v s).c1 = s.c1 := rfl
@[simp] theorem writeFlt_status (v : Byte) (s : State) : (writeFlt v s).status = s.status := rfl
@[simp] theorem writeFlt_dTx (v : Byte) (s : State) : (writeFlt v s).dTx = s.dTx := rfl
@[simp] theorem writeFlt_rxLatch (v : Byte) (s : State) : (writeFlt v s).rxLatch = s.rxLatch := rfl
@[simp] theorem writeFlt_f (v : Byte) (s : State) : (writeFlt v s).f = s.f := rfl
@[simp] theorem writeFlt_flt (v : Byte) (s : State) : (writeFlt v s).flt = v := rfl
@[simp] theorem writeFlt_pending (v : Byte) (s : State) : (writeFlt v s).pending = s.pending := rfl
@[simp] theorem writeFlt_bus (v : Byte) (s : State) : (writeFlt v s).bus = s.bus := rfl
@[simp] theorem writeFlt_cmds (v : Byte) (s : State) : (writeFlt v s).cmds = s.cmds ++ [.write .flt v] :=
  rfl
@[simp] theorem writeFlt_returns (v : Byte) (s : State) : (writeFlt v s).returns = s.returns := rfl
@[simp] theorem writeFlt_faults (v : Byte) (s : State) : (writeFlt v s).faults = s.faults := rfl
@[simp] theorem writeFlt_refused (v : Byte) (s : State) : (writeFlt v s).refused = s.refused := rfl
@[simp] theorem writeFlt_mem (v : Byte) (s : State) : (writeFlt v s).mem = s.mem := rfl
@[simp] theorem writeFlt_params (v : Byte) (s : State) : (writeFlt v s).params = s.params := rfl
@[simp] theorem writeFlt_out (v : Byte) (s : State) : (writeFlt v s).out = s.out := rfl
@[simp] theorem writeFlt_agenda (v : Byte) (s : State) : (writeFlt v s).agenda = s.agenda := rfl
@[simp] theorem writeFlt_tick (v : Byte) (s : State) : (writeFlt v s).tick = s.tick := rfl

/-! ### signalDone -/

@[simp] theorem signalDone_ts (s : State) : (signalDone s).ts = s.ts := rfl
@[simp] theorem signalDone_gen (s : State) : (signalDone s).gen = s.gen := rfl
@[simp] theorem signalDone_doneGen (s : State) : (signalDone s).doneGen = s.gen := rfl
@[simp] theorem signalDone_locked (s : State) : (signalDone s).locked = s.locked := rfl
@[simp] theorem signalDone_wdtArmed (s : State) : (signalDone s).wdtArmed = s.wdtArmed := rfl
@[simp] theorem signalDone_wdtCtx (s : State) : (signalDone s).wdtCtx = s.wdtCtx := rfl
@[simp] theorem signalDone_callers (s : State) : (signalDone s).callers = s.callers := rfl
@[simp] theorem signalDone_handlerStopped (s : State) : (signalDone s).handlerStopped = s.handlerStopped :=
  rfl
@[simp] theorem signalDone_c1 (s : State) : (signalDone s).c1 = s.c1 := rfl
@[simp] theorem signalDone_status (s : State) : (signalDone s).status = s.status := rfl
@[simp] theorem signalDone_dTx (s : State) : (signalDone s).dTx = s.dTx := rfl
@[simp] theorem signalDone_rxLatch (s : State) : (signalDone s).rxLatch = s.rxLatch := rfl
@[simp] theorem signalDone_f (s : State) : (signalDone s).f = s.f := rfl
@[simp] theorem signalDone_flt (s : State) : (signalDone s).flt = s.flt := rfl
@[simp] theorem signalDone_pending (s : State) : (signalDone s).pending = s.pending := rfl
@[simp] theorem signalDone_bus (s : State) : (signalDone s).bus = s.bus := rfl
@[simp] theorem signalDone_cmds (s : State) : (signalDone s).cmds = s.cmds := rfl
@[simp] theorem signalDone_returns (s : State) : (signalDone s).returns = s.returns := rfl
@[simp] theorem signalDone_faults (s : State) : (signalDone s).faults = s.faults := rfl
@[simp] theorem signalDone_refused (s : State) : (signalDone s).refused = s.refused := rfl
@[simp] theorem signalDone_mem (s : State) : (signalDone s).mem = s.mem := rfl
@[simp] theorem signalDone_params (s : State) : (signalDone s).params = s.params := rfl
@[simp] theorem signalDone_out (s : State) : (signalDone s).out = s.out := rfl
@[simp] theorem signalDone_agenda (s : State) : (signalDone s).agenda = s.agenda := rfl
@[simp] theorem signalDone_tick (s : State) : (signalDone s).tick = s.tick := rfl

/-! ### loseArbitration -/

@[simp] theorem loseArbitration_ts (s : State) : (loseArbitration s).ts = s.ts := rfl
@[simp] theorem loseArbitration_gen (s : State) : (loseArbitration s).gen = s.gen := rfl
@[simp] theorem loseArbitration_doneGen (s : State) : (loseArbitration s).doneGen = s.doneGen := rfl
@[simp] theorem loseArbitration_locked (s : State) : (loseArbitration s).locked = s.locked := rfl
@[simp] theorem loseArbitration_wdtArmed (s : State) : (loseArbitration s).wdtArmed = s.wdtArmed :=
  rfl
@[simp] theorem loseArbitration_wdtCtx (s : State) : (loseArbitration s).wdtCtx = s.wdtCtx := rfl
@[simp] theorem loseArbitration_callers (s : State) : (loseArbitration s).callers = s.callers := rfl
@[simp] theorem loseArbitration_handlerStopped (s : State) : (loseArbitration s).handlerStopped = s.handlerStopped :=
  rfl
@[simp] theorem loseArbitration_c1 (s : State) : (loseArbitration s).c1 = clearBitAt s.c1 s.params.layout.mst :=
  rfl
@[simp] theorem loseArbitration_status (s : State) : (loseArbitration s).status = setBitAt (setBitAt s.status s.params.layout.arbl) s.params.layout.iicif :=
  rfl
@[simp] theorem loseArbitration_dTx (s : State) : (loseArbitration s).dTx = s.dTx := rfl
@[simp] theorem loseArbitration_rxLatch (s : State) : (loseArbitration s).rxLatch = s.rxLatch := rfl
@[simp] theorem loseArbitration_f (s : State) : (loseArbitration s).f = s.f := rfl
@[simp] theorem loseArbitration_flt (s : State) : (loseArbitration s).flt = s.flt := rfl
@[simp] theorem loseArbitration_pending (s : State) : (loseArbitration s).pending = .none := rfl
@[simp] theorem loseArbitration_bus (s : State) : (loseArbitration s).bus = s.bus ++ [.arbitrationLost] :=
  rfl
@[simp] theorem loseArbitration_cmds (s : State) : (loseArbitration s).cmds = s.cmds := rfl
@[simp] theorem loseArbitration_returns (s : State) : (loseArbitration s).returns = s.returns := rfl
@[simp] theorem loseArbitration_faults (s : State) : (loseArbitration s).faults = s.faults := rfl
@[simp] theorem loseArbitration_refused (s : State) : (loseArbitration s).refused = s.refused := rfl
@[simp] theorem loseArbitration_mem (s : State) : (loseArbitration s).mem = s.mem := rfl
@[simp] theorem loseArbitration_params (s : State) : (loseArbitration s).params = s.params := rfl
@[simp] theorem loseArbitration_out (s : State) : (loseArbitration s).out = s.out := rfl
@[simp] theorem loseArbitration_agenda (s : State) : (loseArbitration s).agenda = s.agenda := rfl
@[simp] theorem loseArbitration_tick (s : State) : (loseArbitration s).tick = s.tick := rfl

/-! ### armWatchdog -/

@[simp] theorem armWatchdog_ts (d g : Nat) (s : State) : (armWatchdog d g s).ts = s.ts := rfl
@[simp] theorem armWatchdog_gen (d g : Nat) (s : State) : (armWatchdog d g s).gen = s.gen := rfl
@[simp] theorem armWatchdog_doneGen (d g : Nat) (s : State) : (armWatchdog d g s).doneGen = s.doneGen :=
  rfl
@[simp] theorem armWatchdog_locked (d g : Nat) (s : State) : (armWatchdog d g s).locked = s.locked :=
  rfl
@[simp] theorem armWatchdog_wdtArmed (d g : Nat) (s : State) : (armWatchdog d g s).wdtArmed = true :=
  rfl
@[simp] theorem armWatchdog_wdtCtx (d g : Nat) (s : State) : (armWatchdog d g s).wdtCtx = g := rfl
@[simp] theorem armWatchdog_callers (d g : Nat) (s : State) : (armWatchdog d g s).callers = s.callers :=
  rfl
@[simp] theorem armWatchdog_handlerStopped (d g : Nat) (s : State) : (armWatchdog d g s).handlerStopped = s.handlerStopped :=
  rfl
@[simp] theorem armWatchdog_c1 (d g : Nat) (s : State) : (armWatchdog d g s).c1 = s.c1 := rfl
@[simp] theorem armWatchdog_status (d g : Nat) (s : State) : (armWatchdog d g s).status = s.status :=
  rfl
@[simp] theorem armWatchdog_dTx (d g : Nat) (s : State) : (armWatchdog d g s).dTx = s.dTx := rfl
@[simp] theorem armWatchdog_rxLatch (d g : Nat) (s : State) : (armWatchdog d g s).rxLatch = s.rxLatch :=
  rfl
@[simp] theorem armWatchdog_f (d g : Nat) (s : State) : (armWatchdog d g s).f = s.f := rfl
@[simp] theorem armWatchdog_flt (d g : Nat) (s : State) : (armWatchdog d g s).flt = s.flt := rfl
@[simp] theorem armWatchdog_pending (d g : Nat) (s : State) : (armWatchdog d g s).pending = s.pending :=
  rfl
@[simp] theorem armWatchdog_bus (d g : Nat) (s : State) : (armWatchdog d g s).bus = s.bus := rfl
@[simp] theorem armWatchdog_cmds (d g : Nat) (s : State) : (armWatchdog d g s).cmds = s.cmds := rfl
@[simp] theorem armWatchdog_returns (d g : Nat) (s : State) : (armWatchdog d g s).returns = s.returns :=
  rfl
@[simp] theorem armWatchdog_faults (d g : Nat) (s : State) : (armWatchdog d g s).faults = s.faults :=
  rfl
@[simp] theorem armWatchdog_refused (d g : Nat) (s : State) : (armWatchdog d g s).refused = s.refused :=
  rfl
@[simp] theorem armWatchdog_mem (d g : Nat) (s : State) : (armWatchdog d g s).mem = s.mem := rfl
@[simp] theorem armWatchdog_params (d g : Nat) (s : State) : (armWatchdog d g s).params = s.params :=
  rfl
@[simp] theorem armWatchdog_out (d g : Nat) (s : State) : (armWatchdog d g s).out = s.out := rfl
@[simp] theorem armWatchdog_agenda (d g : Nat) (s : State) : (armWatchdog d g s).agenda = s.agenda :=
  rfl
@[simp] theorem armWatchdog_tick (d g : Nat) (s : State) : (armWatchdog d g s).tick = s.tick := rfl

/-! ### cancelWatchdog -/

@[simp] theorem cancelWatchdog_ts (s : State) : (cancelWatchdog s).ts = s.ts := rfl
@[simp] theorem cancelWatchdog_gen (s : State) : (cancelWatchdog s).gen = s.gen := rfl
@[simp] theorem cancelWatchdog_doneGen (s : State) : (cancelWatchdog s).doneGen = s.doneGen := rfl
@[simp] theorem cancelWatchdog_locked (s : State) : (cancelWatchdog s).locked = s.locked := rfl
@[simp] theorem cancelWatchdog_wdtArmed (s : State) : (cancelWatchdog s).wdtArmed = false := rfl
@[simp] theorem cancelWatchdog_wdtCtx (s : State) : (cancelWatchdog s).wdtCtx = s.wdtCtx := rfl
@[simp] theorem cancelWatchdog_callers (s : State) : (cancelWatchdog s).callers = s.callers := rfl
@[simp] theorem cancelWatchdog_handlerStopped (s : State) : (cancelWatchdog s).handlerStopped = s.handlerStopped :=
  rfl
@[simp] theorem cancelWatchdog_c1 (s : State) : (cancelWatchdog s).c1 = s.c1 := rfl
@[simp] theorem cancelWatchdog_status (s : State) : (cancelWatchdog s).status = s.status := rfl
@[simp] theorem cancelWatchdog_dTx (s : State) : (cancelWatchdog s).dTx = s.dTx := rfl
@[simp] theorem cancelWatchdog_rxLatch (s : State) : (cancelWatchdog s).rxLatch = s.rxLatch := rfl
@[simp] theorem cancelWatchdog_f (s : State) : (cancelWatchdog s).f = s.f := rfl
@[simp] theorem cancelWatchdog_flt (s : State) : (cancelWatchdog s).flt = s.flt := rfl
@[simp] theorem cancelWatchdog_pending (s : State) : (cancelWatchdog s).pending = s.pending := rfl
@[simp] theorem cancelWatchdog_bus (s : State) : (cancelWatchdog s).bus = s.bus := rfl
@[simp] theorem cancelWatchdog_cmds (s : State) : (cancelWatchdog s).cmds = s.cmds := rfl
@[simp] theorem cancelWatchdog_returns (s : State) : (cancelWatchdog s).returns = s.returns := rfl
@[simp] theorem cancelWatchdog_faults (s : State) : (cancelWatchdog s).faults = s.faults := rfl
@[simp] theorem cancelWatchdog_refused (s : State) : (cancelWatchdog s).refused = s.refused := rfl
@[simp] theorem cancelWatchdog_mem (s : State) : (cancelWatchdog s).mem = s.mem := rfl
@[simp] theorem cancelWatchdog_params (s : State) : (cancelWatchdog s).params = s.params := rfl
@[simp] theorem cancelWatchdog_out (s : State) : (cancelWatchdog s).out = s.out := rfl
@[simp] theorem cancelWatchdog_agenda (s : State) : (cancelWatchdog s).agenda = s.agenda := rfl
@[simp] theorem cancelWatchdog_tick (s : State) : (cancelWatchdog s).tick = s.tick := rfl

/-! ### updCaller -/

@[simp] theorem updCaller_ts (s : State) (t : Nat) (g : Caller → Caller) : (s.updCaller t g).ts = s.ts :=
  rfl
@[simp] theorem updCaller_gen (s : State) (t : Nat) (g : Caller → Caller) : (s.updCaller t g).gen = s.gen :=
  rfl
@[simp] theorem updCaller_doneGen (s : State) (t : Nat) (g : Caller → Caller) : (s.updCaller t g).doneGen = s.doneGen :=
  rfl
@[simp] theorem updCaller_locked (s : State) (t : Nat) (g : Caller → Caller) : (s.updCaller t g).locked = s.locked :=
  rfl
@[simp] theorem updCaller_wdtArmed (s : State) (t : Nat) (g : Caller → Caller) : (s.updCaller t g).wdtArmed = s.wdtArmed :=
  rfl
@[simp] theorem updCaller_wdtCtx (s : State) (t : Nat) (g : Caller → Caller) : (s.updCaller t g).wdtCtx = s.wdtCtx :=
  rfl
@[simp] theorem updCaller_handlerStopped (s : State) (t : Nat) (g : Caller → Caller) : (s.updCaller t g).handlerStopped = s.handlerStopped :=
  rfl
@[simp] theorem updCaller_c1 (s : State) (t : Nat) (g : Caller → Caller) : (s.updCaller t g).c1 = s.c1 :=
  rfl
@[simp] theorem updCaller_status (s : State) (t : Nat) (g : Caller → Caller) : (s.updCaller t g).status = s.status :=
  rfl
@[simp] theorem updCaller_dTx (s : State) (t : Nat) (g : Caller → Caller) : (s.updCaller t g).dTx = s.dTx :=
  rfl
@[simp] theorem updCaller_rxLatch (s : State) (t : Nat) (g : Caller → Caller) : (s.updCaller t g).rxLatch = s.rxLatch :=
  rfl
@[simp] theorem updCaller_f (s : State) (t : Nat) (g : Caller → Caller) : (s.updCaller t g).f = s.f :=
  rfl
@[simp] theorem updCaller_flt (s : State) (t : Nat) (g : Caller → Caller) : (s.updCaller t g).flt = s.flt :=
  rfl
@[simp] theorem updCaller_pending (s : State) (t : Nat) (g : Caller → Caller) : (s.updCaller t g).pending = s.pending :=
  rfl
@[simp] theorem updCaller_bus (s : State) (t : Nat) (g : Caller → Caller) : (s.updCaller t g).bus = s.bus :=
  rfl
@[simp] theorem updCaller_cmds (s : State) (t : Nat) (g : Caller → Caller) : (s.updCaller t g).cmds = s.cmds :=
  rfl
@[simp] theorem updCaller_returns (s : State) (t : Nat) (g : Caller → Caller) : (s.updCaller t g).returns = s.returns :=
  rfl
@[simp] theorem updCaller_faults (s : State) (t : Nat) (g : Caller → Caller) : (s.updCaller t g).faults = s.faults :=
  rfl
@[simp] theorem updCaller_refused (s : State) (t : Nat) (g : Caller → Caller) : (s.updCaller t g).refused = s.refused :=
  rfl
@[simp] theorem updCaller_mem (s : State) (t : Nat) (g : Caller → Caller) : (s.updCaller t g).mem = s.mem :=
  rfl
@[simp] theorem updCaller_params (s : State) (t : Nat) (g : Caller → Caller) : (s.updCaller t g).params = s.params :=
  rfl
@[simp] theorem updCaller_out (s : State) (t : Nat) (g : Caller → Caller) : (s.updCaller t g).out = s.out :=
  rfl
@[simp] theorem updCaller_agenda (s : State) (t : Nat) (g : Caller → Caller) : (s.updCaller t g).agenda = s.agenda :=
  rfl
@[simp] theorem updCaller_tick (s : State) (t : Nat) (g : Caller → Caller) : (s.updCaller t g).tick = s.tick :=
  rfl

end Sys2Proof.Machine
end

