-- ==== Sys2Proof/Laws/Ops.lean ====
section
/-! SUPPORT. What the shared operations do, said once: sparse lists, memory, caller threads, the
pseudocode's actions, agents' steps. -/

namespace Sys2Proof.Machine

/-! ### Sparse lists -/

section Cells
variable {α : Type}

@[simp] theorem cellGet_nil (d : α) (k : Nat) : cellGet d k [] = d := rfl

theorem cellGet_cellPut_same (d : α) (k : Nat) (v : α) (l : List (Nat × α)) :
    cellGet d k (cellPut k v l) = v := by
  induction l with
  | nil => simp [cellPut, cellGet]
  | cons x l ih =>
    obtain ⟨j, w⟩ := x
    simp only [cellPut]
    split
    · simp [cellGet]
    · split
      · simp [cellGet]
      · rename_i h; simp [cellGet, h, ih]

theorem cellGet_cellPut_other (d : α) {j k : Nat} (h : j ≠ k) (v : α) (l : List (Nat × α)) :
    cellGet d j (cellPut k v l) = cellGet d j l := by
  induction l with
  | nil => simp [cellPut, cellGet, Ne.symm h]
  | cons x l ih =>
    obtain ⟨i, w⟩ := x
    simp only [cellPut]
    split
    · simp [cellGet, Ne.symm h]
    · split
      · rename_i hi; subst hi; simp [cellGet, Ne.symm h]
      · simp [cellGet, ih]

theorem cellGet_cellErase_same (d : α) (k : Nat) (l : List (Nat × α)) :
    cellGet d k (cellErase k l) = d := by
  induction l with
  | nil => rfl
  | cons x l ih =>
    obtain ⟨i, w⟩ := x
    simp only [cellErase]
    split
    · exact ih
    · rename_i h; simp [cellGet, h, ih]

theorem cellGet_cellErase_other (d : α) {j k : Nat} (h : j ≠ k) (l : List (Nat × α)) :
    cellGet d j (cellErase k l) = cellGet d j l := by
  induction l with
  | nil => rfl
  | cons x l ih =>
    obtain ⟨i, w⟩ := x
    simp only [cellErase]
    split
    · rename_i hi; subst hi; simp [cellGet, Ne.symm h, ih]
    · simp [cellGet, ih]

theorem cellsWfFrom_mono {ok : α → Bool} {lo lo' : Nat} (h : lo ≤ lo') :
    ∀ l, cellsWfFrom ok lo' l = true → cellsWfFrom ok lo l = true
  | [], _ => rfl
  | (j, v) :: l, hl => by
    simp only [cellsWfFrom, Bool.and_eq_true, decide_eq_true_eq] at hl ⊢
    exact ⟨⟨Nat.le_trans h hl.1.1, hl.1.2⟩, hl.2⟩

theorem cellsWfFrom_cellPut {ok : α → Bool} {k : Nat} {v : α} (hv : ok v = true) :
    ∀ {lo : Nat} {l : List (Nat × α)}, lo ≤ k → cellsWfFrom ok lo l = true →
      cellsWfFrom ok lo (cellPut k v l) = true
  | lo, [], hlo, _ => by simp [cellPut, cellsWfFrom, hv, hlo]
  | lo, (j, w) :: l, hlo, hl => by
    simp only [cellsWfFrom, Bool.and_eq_true, decide_eq_true_eq] at hl
    simp only [cellPut]
    split
    · rename_i h
      simp [cellsWfFrom, hv, hlo, hl.1.2, hl.2, Nat.succ_le_of_lt h]
    · split
      · rename_i h
        subst h
        simp [cellsWfFrom, hv, hlo, hl.2]
      · rename_i h1 h2
        have hk : j + 1 ≤ k := by omega
        simp [cellsWfFrom, hl.1.1, hl.1.2, cellsWfFrom_cellPut hv hk hl.2]

theorem cellsWfFrom_cellErase {ok : α → Bool} {k : Nat} :
    ∀ {lo : Nat} {l : List (Nat × α)}, cellsWfFrom ok lo l = true →
      cellsWfFrom ok lo (cellErase k l) = true
  | _, [], _ => rfl
  | lo, (j, w) :: l, hl => by
    simp only [cellsWfFrom, Bool.and_eq_true, decide_eq_true_eq] at hl
    simp only [cellErase]
    split
    · exact cellsWfFrom_cellErase (cellsWfFrom_mono (by omega) l hl.2)
    · simp [cellsWfFrom, hl.1.1, hl.1.2, cellsWfFrom_cellErase hl.2]

section Sparse
variable [DecidableEq α]

theorem cellGet_sparsePut_same (d : α) (k : Nat) (v : α) (l : List (Nat × α)) :
    cellGet d k (sparsePut d k v l) = v := by
  unfold sparsePut
  split
  · rename_i h; rw [cellGet_cellErase_same, h]
  · exact cellGet_cellPut_same ..

theorem cellGet_sparsePut_other (d : α) {j k : Nat} (h : j ≠ k) (v : α) (l : List (Nat × α)) :
    cellGet d j (sparsePut d k v l) = cellGet d j l := by
  unfold sparsePut
  split
  · exact cellGet_cellErase_other _ h _
  · exact cellGet_cellPut_other _ h _ _

/-- Putting a value keeps the canonical form: keys rising, no entry equal to the default. -/
theorem cellsWfFrom_sparsePut (d : α) (k : Nat) (v : α) {l : List (Nat × α)}
    (h : cellsWfFrom (fun x => x != d) 0 l = true) :
    cellsWfFrom (fun x => x != d) 0 (sparsePut d k v l) = true := by
  unfold sparsePut
  split
  · exact cellsWfFrom_cellErase h
  · rename_i hv
    exact cellsWfFrom_cellPut (by simpa using hv) (Nat.zero_le _) h

end Sparse

end Cells

/-! ### Caller memory -/

theorem memRead_memWrite_same (a : Nat) (v : Byte) (m : List Host.Cell) :
    memRead a (memWrite a v m) = v := cellGet_sparsePut_same ..

theorem memRead_memWrite_other {a b : Nat} (h : b ≠ a) (v : Byte) (m : List Host.Cell) :
    memRead b (memWrite a v m) = memRead b m := cellGet_sparsePut_other _ h _ _

/-- Every memory write keeps the canonical form. -/
theorem Memory_wf_memWrite (a : Nat) (v : Byte) {m : List Host.Cell} (h : Memory.wf m = true) :
    Memory.wf (memWrite a v m) = true := cellsWfFrom_sparsePut _ a v h

theorem Memory_wf_reset : Memory.wf State.reset.mem = true := rfl

/-! ### Caller threads -/

@[simp] theorem caller_updCaller_same (s : State) (t : Nat) (f : Caller → Caller) :
    (s.updCaller t f).caller t = f (s.caller t) := cellGet_sparsePut_same ..

theorem caller_updCaller_other (s : State) {t u : Nat} (h : u ≠ t) (f : Caller → Caller) :
    (s.updCaller t f).caller u = s.caller u := cellGet_sparsePut_other _ h _ _

/-- A change of a thread's record keeps the list of callers canonical. -/
theorem callers_wf_updCaller (s : State) (t : Nat) (f : Caller → Caller)
    (h : cellsWfFrom (fun c => c != Caller.atReset) 0 s.callers = true) :
    cellsWfFrom (fun c => c != Caller.atReset) 0 (s.updCaller t f).callers = true :=
  cellsWfFrom_sparsePut _ t _ h

/-- The record of a thread depends on the list of callers alone. -/
theorem caller_congr {s s' : State} (h : s.callers = s'.callers) (t : Nat) :
    s.caller t = s'.caller t := by unfold State.caller; rw [h]

/-! ### The pseudocode's actions -/

theorem act_bind {α β : Type} (a : Act α) (f : α → Act β) (s : State) :
    (a >>= f) s = match a s with
      | .ok x t => f x t
      | .error e t => .error e t := by
  cases h : a s <;> simp [bind, EStateM.bind, h]

theorem act_map {α β : Type} (g : α → β) (a : Act α) (s : State) :
    (g <$> a) s = match a s with
      | .ok x t => .ok (g x) t
      | .error e t => .error e t := by
  cases h : a s <;> simp [Functor.map, EStateM.map, h]

theorem act_pure {α : Type} (x : α) (s : State) : (pure x : Act α) s = .ok x s := rfl

@[simp] theorem look_apply {α : Type} (f : State → α) (s : State) : look f s = .ok (f s) s := rfl
@[simp] theorem change_apply (f : State → State) (s : State) : change f s = .ok () (f s) := rfl
@[simp] theorem raise_apply {α : Type} (e : FaultReason) (s : State) :
    (raise e : Act α) s = .error e s := rfl

theorem need_some {α : Type} {f : TransferState → Option α} {s : State} {x : α}
    (h : f s.ts = some x) : need f s = .ok x s := by simp [need, h]

theorem need_none {α : Type} {f : TransferState → Option α} {s : State}
    (h : f s.ts = none) : need f s = .error .unsetRead s := by simp [need, h]

/-- An agent's step: its action's effects, or those before the `raise` with the fault taken. -/
theorem runAct_ok {r : Runner} {a : Act Unit} {s t : State} (hr : stoppedBy r s = false)
    (h : a s = .ok () t) : runAct r a s = t := by simp [runAct, hr, h]

theorem runAct_error {r : Runner} {a : Act Unit} {s t : State} {e : FaultReason}
    (hr : stoppedBy r s = false) (h : a s = .error e t) : runAct r a s = takeFault r e t := by
  simp [runAct, hr, h]

theorem runAct_stopped {r : Runner} {a : Act Unit} {s : State} (hr : stoppedBy r s = true) :
    runAct r a s = s := by simp [runAct, hr]

/-- A property that an action and the taking of a fault keep is kept by the agent's step. -/
theorem runAct_keeps {P : State → Prop} {r : Runner} {a : Act Unit} {s : State} (hs : P s)
    (hok : ∀ t, a s = .ok () t → P t) (herr : ∀ e t, a s = .error e t → P (takeFault r e t)) :
    P (runAct r a s) := by
  unfold runAct
  split
  · exact hs
  · split
    · exact hok _ ‹_›
    · exact herr _ _ ‹_›

/-- The same for a phase of a caller thread. -/
theorem coordStep_keeps {P : State → Prop} {t : Nat} {p : Phase} {a : Act Unit} {s : State}
    (hs : P s) (h : (s.caller t).pc = p → P (runAct (.caller t) a s)) : P (coordStep t p a s) := by
  unfold coordStep
  split
  · exact h ‹_›
  · exact hs

/-! ### Message descriptors and buffers -/

/-- Msg(i) inside the chain (R65). -/
theorem msgAt_ok {s : State} {msgs : List Message} {count i : Int} (hm : s.ts.msgs = some msgs)
    (hc : s.ts.count = some count) (h0 : 0 ≤ i) (hi : i < count) :
    msgAt i s = .ok (msgEntry msgs i.toNat) s := by
  have h0' : ¬i < 0 := by omega
  have hi' : ¬i ≥ count := by omega
  simp [msgAt, h0', hi', act_bind, act_map, need_some hc, need_some hm]

/-- Msg(i) before the chain (R65); the count is not read. -/
theorem msgAt_before {s : State} {i : Int} (hi : i < 0) : msgAt i s = .error .noNextMessage s := by
  simp [msgAt, hi]

/-- Msg(i) beyond the chain (R65). -/
theorem msgAt_beyond {s : State} {count i : Int} (hc : s.ts.count = some count) (h0 : 0 < i)
    (hi : count ≤ i) : msgAt i s = .error .noNextMessage s := by
  have h0' : ¬i < 0 := by omega
  have h1 : i ≠ 0 := by omega
  have hi' : i ≥ count := hi
  simp [msgAt, h0', h1, hi', act_bind, need_some hc]

/-- Msg(i) writes nothing: it answers a message or a fault (R65). -/
theorem msgAt_writes_nothing (i : Int) (s : State) :
    (∃ m, msgAt i s = .ok m s) ∨ ∃ e, msgAt i s = .error e s := by
  by_cases hi : i < 0
  · exact .inr ⟨_, msgAt_before hi⟩
  · cases hc : s.ts.count with
    | none => exact .inr ⟨_, by simp [msgAt, hi, act_bind, need_none (f := (·.count)) hc]; rfl⟩
    | some count =>
      by_cases hk : i ≥ count
      · exact .inr ⟨_, by simp [msgAt, hi, act_bind, need_some (f := (·.count)) hc, hk]; rfl⟩
      · cases hm : s.ts.msgs with
        | none =>
          exact .inr ⟨_, by simp [msgAt, hi, act_bind, act_map, need_some (f := (·.count)) hc, hk,
            need_none (f := (·.msgs)) hm]; rfl⟩
        | some msgs => exact .inl ⟨_, msgAt_ok hm hc (by omega) (by omega)⟩

/-- So does the read of the current message. -/
theorem curMsg_writes_nothing (s : State) :
    (∃ m, curMsg s = .ok m s) ∨ ∃ e, curMsg s = .error e s := by
  cases hi : s.ts.idx with
  | none => exact .inr ⟨_, by simp [curMsg, act_bind, need_none (f := (·.idx)) hi]; rfl⟩
  | some i => simpa [curMsg, act_bind, need_some (f := (·.idx)) hi] using msgAt_writes_nothing i s

/-- `Msg(ts.idx)` inside the chain (R24, R65). -/
theorem curMsg_ok {s : State} {msgs : List Message} {count i : Int} (hm : s.ts.msgs = some msgs)
    (hc : s.ts.count = some count) (hi : s.ts.idx = some i) (h0 : 0 ≤ i) (h1 : i < count) :
    curMsg s = .ok (msgEntry msgs i.toNat) s := by
  simp [curMsg, act_bind, need_some hi, msgAt_ok hm hc h0 h1]

/-- restart_for(i) (R179): the merge test of the messages at `i` and `i + 1`, true at the last. -/
theorem restartForAct_ok {s : State} {msgs : List Message} {count i : Int}
    (hm : s.ts.msgs = some msgs) (hc : s.ts.count = some count) (h : 0 ≤ i ∨ count ≤ i + 1) :
    restartForAct i s = .ok (restartValue msgs count i) s := by
  by_cases hi : i + 1 < count
  · have h0 : 0 ≤ i := by omega
    simp [restartForAct, act_bind, act_map, need_some hc, hi, msgAt_ok hm hc h0 (by omega),
      msgAt_ok hm hc (show 0 ≤ i + 1 by omega) hi, restartValue]
  · simp [restartForAct, act_bind, act_pure, need_some hc, hi, restartValue]

/-- The record read as closed (R29). -/
theorem recordClosed_of_closed {s : State} (h : RecordClosed s) : recordClosed s = .ok true s := by
  rcases h with h | ⟨hn, st, hst, hne⟩
  · simp [recordClosed, act_bind, need_some (f := (·.nmsg)) h, act_pure]
  · obtain ⟨n, hn⟩ := Option.ne_none_iff_exists'.1 hn
    by_cases h0 : n = 0
    · simp [recordClosed, act_bind, act_pure, need_some (f := (·.nmsg)) hn, h0]
    · simp [recordClosed, act_bind, act_map, need_some (f := (·.nmsg)) hn, h0,
        need_some (f := (·.status)) hst, hne]

/-- The record read as open. -/
theorem recordClosed_of_open {s : State} (h : RecordOpen s) : recordClosed s = .ok false s := by
  obtain ⟨⟨n, hn, hpos⟩, hst⟩ := h
  have h0 : n ≠ 0 := by omega
  simp [recordClosed, act_bind, act_map, need_some (f := (·.nmsg)) hn, h0,
    need_some (f := (·.status)) hst]

/-- The guard's condition on a closed record (R131). -/
theorem guardHolds_of_closed {s : State} (hg : s.params.lateGuard = true) (h : RecordClosed s) :
    guardHolds s = .ok true s := by
  simp [guardHolds, act_bind, hg, recordClosed_of_closed h]

/-- The guard's condition on an open record (R131). -/
theorem guardHolds_of_open {s : State} (h : RecordOpen s) : guardHolds s = .ok false s := by
  by_cases hg : s.params.lateGuard = true
  · simp [guardHolds, act_bind, hg, recordClosed_of_open h]
  · simp [guardHolds, act_bind, act_pure, hg]

theorem bufRead_in {m : Message} {i : Int} {s : State} (h : inBuffer m i = true) :
    bufRead m i s = .ok (memRead (bufAddr m i) s.mem) s := by simp [bufRead, h]

theorem bufRead_out {m : Message} {i : Int} {s : State} (h : inBuffer m i = false) :
    bufRead m i s = .error .bufferOverrun s := by simp [bufRead, h]

theorem bufWrite_in {m : Message} {i : Int} {v : Byte} {s : State} (h : inBuffer m i = true) :
    bufWrite m i v s = .ok () { s with mem := memWrite (bufAddr m i) v s.mem } := by
  simp [bufWrite, h]

theorem bufWrite_out {m : Message} {i : Int} {v : Byte} {s : State} (h : inBuffer m i = false) :
    bufWrite m i v s = .error .bufferOverrun s := by simp [bufWrite, h]

/-- The guard's condition where it lets the handler pass. -/
theorem guardHolds_of_passes {s : State} (h : GuardPasses s) : guardHolds s = .ok false s := by
  rcases h with h | h
  · simp [guardHolds, act_bind, act_pure, h]
  · exact guardHolds_of_open h

/-! ### Register fields (R8) -/

theorem getLsbD_bit (n i : Nat) : (1#8 <<< n).getLsbD i = (decide (i < 8) && decide (i = n)) := by
  rw [BitVec.getLsbD_shiftLeft, BitVec.getLsbD_one, Bool.eq_iff_iff]
  simp
  omega
theorem getLsbD_setBitAt (v : Byte) (n i : Nat) :
    (setBitAt v n).getLsbD i = (v.getLsbD i || (decide (i < 8) && decide (i = n))) := by
  rw [setBitAt, BitVec.getLsbD_or, getLsbD_bit]

theorem getLsbD_clearBitAt (v : Byte) (n i : Nat) :
    (clearBitAt v n).getLsbD i = (v.getLsbD i && !decide (i = n)) := by
  rw [clearBitAt, BitVec.getLsbD_and, BitVec.getLsbD_not, getLsbD_bit]
  by_cases h : i < 8
  · simp [h]
  · simp [h, BitVec.getLsbD_of_ge v i (by omega)]

/-- `{F1, F2}` has exactly its fields set (R8). -/
theorem getLsbD_fieldsByte (ps : List Nat) (i : Nat) :
    (fieldsByte ps).getLsbD i = (decide (i < 8) && decide (i ∈ ps)) := by
  have key : ∀ (ps : List Nat) (v : Byte), (ps.foldl setBitAt v).getLsbD i =
      (v.getLsbD i || (decide (i < 8) && decide (i ∈ ps))) := by
    intro ps
    induction ps with
    | nil => simp
    | cons p ps ih =>
      intro v
      rw [List.foldl_cons, ih, getLsbD_setBitAt]
      rw [Bool.eq_iff_iff]
      simp only [Bool.or_eq_true, Bool.and_eq_true, decide_eq_true_eq, List.mem_cons]
      tauto
  rw [fieldsByte, key]
  simp

/-- The bits of a dispatch vector (R88): the status snapshot below, the control snapshot above. -/
theorem getLsbD_dispatchVector (c s : Byte) (i : Nat) :
    (dispatchVector c s).getLsbD i = if i < 8 then s.getLsbD i else c.getLsbD (i - 8) := by
  rw [dispatchVector, BitVec.getLsbD_or, BitVec.getLsbD_shiftLeft, BitVec.getLsbD_setWidth,
    BitVec.getLsbD_setWidth]
  by_cases h : i < 8
  · simp [h, show i < 16 by omega]
  · by_cases h2 : i < 16
    · simp [h, h2, BitVec.getLsbD_of_ge s i (by omega), show i - 8 < 16 by omega]
    · simp [h, h2, BitVec.getLsbD_of_ge c (i - 8) (by omega)]

/-- What a well-formed layout says of its fields (R81, R82). -/
theorem layout_wf_fields {L : Layout} (h : L.wf = true) :
    (L.en < 8 ∧ L.ie < 8 ∧ L.mst < 8 ∧ L.tx < 8 ∧ L.txak < 8 ∧ L.rsta < 8 ∧ L.busy < 8 ∧ L.arbl < 8 ∧
      L.iicif < 8 ∧ L.rxak < 8) ∧
    [L.en, L.ie, L.mst, L.tx, L.txak, L.rsta].Nodup ∧ [L.busy, L.arbl, L.iicif, L.rxak].Nodup := by
  simp only [Layout.wf, Bool.and_eq_true, List.all_cons, List.all_nil, decide_eq_true_eq] at h
  tauto

/-- A row's condition on a vector, bit by bit (R88). -/
theorem branchMatches_iff (L : Layout) (b : Branch) (v : Vec16) : branchMatches L b v = true ↔
    ∀ i < 16, (v.getLsbD i && (branchMask L b).getLsbD i) = (branchPattern L b).getLsbD i := by
  rw [branchMatches, beq_iff_eq]
  constructor
  · intro h i _; rw [← h, BitVec.getLsbD_and]
  · intro h; exact BitVec.eq_of_getLsbD_eq fun i hi => by rw [BitVec.getLsbD_and, h i hi]

/-! ### The command bytes (R84, R85) -/

theorem cmdStartByte_default : cmdStartByte .default = 0xF0#8 := by decide
theorem cmdRestartByte_default : cmdRestartByte .default = 0xF4#8 := by decide
theorem cmdRxAckByte_default : cmdRxAckByte .default = 0xE0#8 := by decide
theorem cmdRxNoackByte_default : cmdRxNoackByte .default = 0xE8#8 := by decide
theorem cmdTxByte_default : cmdTxByte .default = 0xF0#8 := by decide
theorem cmdStopByte_default : cmdStopByte .default = 0xC0#8 := by decide
theorem cmdIdleByte_default : cmdIdleByte .default = 0x80#8 := by decide
theorem clrAllByte_default : clrAllByte .default = 0x12#8 := by decide
theorem clrIfByte_default : clrIfByte .default = 0x02#8 := by decide

end Sys2Proof.Machine
end

