-- ==== Sys2Proof/Laws/Triple.lean ====
section
/-! SUPPORT. Reasoning about the pseudocode's actions without unfolding them: `Holds P a Q E` says that
from a state with `P` the action either answers `x` in a state with `Q x`, or raises `e` in a state
with `E e`; one rule per way of building an action. -/

namespace Sys2Proof.Machine

/-- What an action does from the states with `P`. -/
def Holds {α : Type} (P : State → Prop) (a : Act α) (Q : α → State → Prop)
    (E : FaultReason → State → Prop) : Prop :=
  ∀ s, P s → (∀ x t, a s = .ok x t → Q x t) ∧ (∀ e t, a s = .error e t → E e t)

section Rules
variable {α β : Type} {P : State → Prop} {E : FaultReason → State → Prop}

theorem Holds.pure {Q : α → State → Prop} {x : α} (h : ∀ s, P s → Q x s) :
    Holds P (pure x : Act α) Q E := by
  intro s hs
  refine ⟨?_, ?_⟩
  · intro y t e
    cases e
    exact h s hs
  · intro e t he
    cases he

theorem Holds.bind {R : α → State → Prop} {Q : β → State → Prop} {a : Act α} {f : α → Act β}
    (ha : Holds P a R E) (hf : ∀ x, Holds (R x) (f x) Q E) : Holds P (a >>= f) Q E := by
  intro s hs
  rw [act_bind]
  cases h : a s with
  | ok x t => exact hf x t ((ha s hs).1 x t h)
  | error e t =>
    refine ⟨fun y u hu => ?_, fun e' u hu => ?_⟩
    · cases hu
    · cases hu
      exact (ha s hs).2 _ _ h

theorem Holds.map {Q : β → State → Prop} {g : α → β} {a : Act α}
    (ha : Holds P a (fun x t => Q (g x) t) E) : Holds P (g <$> a) Q E := by
  intro s hs
  rw [act_map]
  cases h : a s with
  | ok x t =>
    refine ⟨fun y u hu => ?_, fun e' u hu => ?_⟩
    · cases hu
      exact (ha s hs).1 _ _ h
    · cases hu
  | error e t =>
    refine ⟨fun y u hu => ?_, fun e' u hu => ?_⟩
    · cases hu
    · cases hu
      exact (ha s hs).2 _ _ h

theorem Holds.look {Q : α → State → Prop} {f : State → α} (h : ∀ s, P s → Q (f s) s) :
    Holds P (look f) Q E := by
  intro s hs
  refine ⟨fun y u hu => ?_, fun e' u hu => ?_⟩
  · cases hu
    exact h s hs
  · cases hu

theorem Holds.change {Q : Unit → State → Prop} {f : State → State} (h : ∀ s, P s → Q () (f s)) :
    Holds P (change f) Q E := by
  intro s hs
  refine ⟨fun y u hu => ?_, fun e' u hu => ?_⟩
  · cases hu
    exact h s hs
  · cases hu

theorem Holds.raise {Q : α → State → Prop} {e : FaultReason} (h : ∀ s, P s → E e s) :
    Holds P (raise e : Act α) Q E := by
  intro s hs
  refine ⟨fun y u hu => ?_, fun e' u hu => ?_⟩
  · cases hu
  · cases hu
    exact h s hs

theorem Holds.need {Q : α → State → Prop} {f : TransferState → Option α}
    (h : ∀ s x, P s → f s.ts = some x → Q x s) (he : ∀ s, P s → f s.ts = none → E .unsetRead s) :
    Holds P (need f) Q E := by
  intro s hs
  cases hx : f s.ts with
  | some x =>
    rw [need_some hx]
    refine ⟨fun y u hu => ?_, fun e' u hu => ?_⟩
    · cases hu
      exact h s x hs hx
    · cases hu
  | none =>
    rw [need_none hx]
    refine ⟨fun y u hu => ?_, fun e' u hu => ?_⟩
    · cases hu
    · cases hu
      exact he s hs hx

theorem Holds.readC1 {Q : Byte → State → Prop}
    (h : ∀ s, P s → Q s.c1 { s with cmds := s.cmds ++ [.read .c1 s.c1] }) : Holds P readC1 Q E := by
  intro s hs
  refine ⟨fun y u hu => ?_, fun e' u hu => ?_⟩
  · cases hu
    exact h s hs
  · cases hu

theorem Holds.readS {Q : Byte → State → Prop}
    (h : ∀ s, P s → Q s.status { s with cmds := s.cmds ++ [.read .s s.status] }) :
    Holds P readS Q E := by
  intro s hs
  refine ⟨fun y u hu => ?_, fun e' u hu => ?_⟩
  · cases hu
    exact h s hs
  · cases hu

theorem Holds.readD {Q : Byte → State → Prop}
    (h : ∀ s, P s → Q s.rxLatch { s with
      pending := pendingAfterReadD s.params.layout s.c1 s.pending
      cmds := s.cmds ++ [.read .d s.rxLatch] }) : Holds P readD Q E := by
  intro s hs
  refine ⟨fun y u hu => ?_, fun e' u hu => ?_⟩
  · cases hu
    exact h s hs
  · cases hu

theorem Holds.ite {Q : α → State → Prop} {c : Prop} [Decidable c] {a b : Act α}
    (ha : c → Holds P a Q E) (hb : ¬c → Holds P b Q E) : Holds P (if c then a else b) Q E := by
  split
  · exact ha ‹_›
  · exact hb ‹_›

theorem Holds.weaken {P' : State → Prop} {Q Q' : α → State → Prop} {E' : FaultReason → State → Prop}
    {a : Act α} (h : Holds P' a Q' E') (hp : ∀ s, P s → P' s) (hq : ∀ x t, Q' x t → Q x t)
    (he : ∀ e t, E' e t → E e t) : Holds P a Q E := fun s hs =>
  ⟨fun x t ht => hq x t ((h s (hp s hs)).1 x t ht), fun e t ht => he e t ((h s (hp s hs)).2 e t ht)⟩

end Rules

/-- An action keeps a property, whether it answers or raises. -/
abbrev Keeps {α : Type} (P : State → Prop) (a : Act α) : Prop :=
  Holds P a (fun _ => P) (fun _ => P)

/-- An agent's step keeps what its action and the fault's taking keep. -/
theorem runAct_of_keeps {P : State → Prop} {r : Runner} {a : Act Unit} (ha : Keeps P a)
    (hf : ∀ e t, P t → P (takeFault r e t)) {s : State} (hs : P s) : P (runAct r a s) :=
  runAct_keeps hs (fun t ht => (ha s hs).1 _ t ht) (fun e t ht => hf e t ((ha s hs).2 e t ht))

section Keeping
variable {P : State → Prop}

theorem keeps_msgAt (i : Int) : Keeps P (msgAt i) := by
  unfold msgAt
  refine Holds.ite (fun _ => Holds.raise fun _ h => h) fun _ => ?_
  refine Holds.bind (Holds.need (fun _ _ h _ => h) (fun _ h _ => h)) fun _ => ?_
  refine Holds.ite (fun _ => Holds.raise fun _ h => h) fun _ => ?_
  exact Holds.bind (Holds.need (fun _ _ h _ => h) (fun _ h _ => h)) fun _ => Holds.pure fun _ h => h

theorem keeps_need {α : Type} (f : TransferState → Option α) : Keeps P (need f) :=
  Holds.need (fun _ _ h _ => h) (fun _ h _ => h)

theorem keeps_look {α : Type} (f : State → α) : Keeps P (look f) := Holds.look fun _ h => h

theorem keeps_pure {α : Type} (x : α) : Keeps P (pure x : Act α) := Holds.pure fun _ h => h

theorem keeps_raise {α : Type} (e : FaultReason) : Keeps P (raise e : Act α) :=
  Holds.raise fun _ h => h

theorem keeps_curMsg : Keeps P curMsg :=
  Holds.bind (keeps_need _) fun _ => keeps_msgAt _

theorem keeps_restartForAct (i : Int) : Keeps P (restartForAct i) := by
  unfold restartForAct
  refine Holds.bind (keeps_need _) fun _ => Holds.ite (fun _ => ?_) fun _ => keeps_pure _
  exact Holds.bind (keeps_msgAt _) fun _ => Holds.bind (keeps_msgAt _) fun _ => keeps_pure _

theorem keeps_bufRead (m : Message) (i : Int) : Keeps P (bufRead m i) := by
  unfold bufRead
  exact Holds.ite (fun _ => keeps_look _) fun _ => keeps_raise _

theorem keeps_recordClosed : Keeps P recordClosed := by
  unfold recordClosed
  refine Holds.bind (keeps_need _) fun _ => Holds.ite (fun _ => keeps_pure _) fun _ => ?_
  exact Holds.bind (keeps_need _) fun _ => keeps_pure _

theorem keeps_guardHolds : Keeps P guardHolds := by
  unfold guardHolds
  exact Holds.bind (keeps_look _) fun _ => Holds.ite (fun _ => keeps_recordClosed) fun _ => keeps_pure _

theorem keeps_branchCond (b : Branch) (m : Message) : Keeps P (branchCond b m) := by
  cases b <;> simp only [branchCond] <;>
    repeat' first
      | exact keeps_guardHolds
      | exact keeps_pure _
      | exact keeps_need _
      | exact keeps_msgAt _
      | refine Holds.ite (fun _ => ?_) (fun _ => ?_)
      | refine Holds.bind (R := fun _ => P) ?_ (fun _ => ?_)

end Keeping

/-- What a property must survive to be kept by every branch of the handler: the handler's writes to
the registers, the Transfer State, the completion channel, the buffers and the trace (R42, R237). -/
structure HandlerStable (P : State → Prop) : Prop where
  ts : ∀ (f : TransferState → TransferState) s, P s → P { s with ts := f s.ts }
  signal : ∀ s, P s → P (signalDone s)
  writeC1 : ∀ v s, P s → P (writeC1 v s)
  writeS : ∀ v s, P s → P (writeS v s)
  writeD : ∀ v s, P s → P (writeD v s)
  readC1 : ∀ s, P s → P { s with cmds := s.cmds ++ [.read .c1 s.c1] }
  readS : ∀ s, P s → P { s with cmds := s.cmds ++ [.read .s s.status] }
  readD : ∀ s, P s → P { s with
    pending := pendingAfterReadD s.params.layout s.c1 s.pending
    cmds := s.cmds ++ [.read .d s.rxLatch] }
  store : ∀ a v s, P s → P { s with mem := memWrite a v s.mem }

namespace HandlerStable
variable {P : State → Prop} (h : HandlerStable P)
include h

theorem keeps_setTs (f : TransferState → TransferState) : Keeps P (setTs f) :=
  Holds.change fun s hs => h.ts f s hs

theorem keeps_writeC1 (v : Byte) : Keeps P (change (Machine.writeC1 v)) :=
  Holds.change fun s hs => h.writeC1 v s hs

theorem keeps_writeS (v : Byte) : Keeps P (change (Machine.writeS v)) :=
  Holds.change fun s hs => h.writeS v s hs

theorem keeps_command (cmd : Layout → Byte) : Keeps P (change (command cmd)) :=
  Holds.change fun s hs => h.writeC1 _ s hs

theorem keeps_clearCommand (cmd : Layout → Byte) : Keeps P (change (clearCommand cmd)) :=
  Holds.change fun s hs => h.writeS _ s hs

theorem keeps_writeD (v : Byte) : Keeps P (change (Machine.writeD v)) :=
  Holds.change fun s hs => h.writeD v s hs

theorem keeps_readD : Keeps P Machine.readD := Holds.readD fun s hs => h.readD s hs

theorem keeps_bufWrite (m : Message) (i : Int) (v : Byte) : Keeps P (bufWrite m i v) := by
  unfold bufWrite
  exact Holds.ite (fun _ => Holds.change fun s hs => h.store _ _ s hs) fun _ => keeps_raise _

theorem keeps_signalAct : Keeps P signalAct := Holds.change fun s hs => h.signal s hs

theorem keeps_stopAct : Keeps P stopAct :=
  Holds.bind (h.keeps_command _) fun _ => h.keeps_signalAct

theorem keeps_dataRead (m : Message) : Keeps P (dataRead m) :=
  Holds.bind h.keeps_readD fun _ => Holds.bind (keeps_need _) fun _ =>
    Holds.bind (h.keeps_bufWrite m _ _) fun _ => keeps_pure _

theorem keeps_consumeByte (m : Message) : Keeps P (consumeByte m) :=
  Holds.bind (h.keeps_dataRead m) fun _ => Holds.bind (keeps_need _) fun _ => h.keeps_setTs _

theorem keeps_restartRecompute : Keeps P restartRecomputeAct := by
  unfold restartRecomputeAct
  refine Holds.bind (keeps_look _) fun mode => ?_
  cases mode with
  | perTransition =>
    exact Holds.bind (keeps_need _) fun _ => Holds.bind (keeps_restartForAct _) fun _ => h.keeps_setTs _
  | perStep => exact keeps_pure _

theorem keeps_nextMessage : Keeps P nextMessageAct :=
  Holds.bind (keeps_need _) fun _ => h.keeps_setTs _

theorem keeps_advanceSignal : Keeps P advanceSignalAct :=
  Holds.bind h.keeps_nextMessage fun _ => Holds.bind h.keeps_signalAct fun _ =>
    Holds.bind h.keeps_restartRecompute fun _ => keeps_pure _

theorem keeps_advanceMerged : Keeps P advanceMergedAct :=
  Holds.bind h.keeps_nextMessage fun _ => Holds.bind h.keeps_restartRecompute fun _ => keeps_pure _

theorem keeps_terminate : Keeps P terminateAct :=
  Holds.bind h.keeps_stopAct fun _ => keeps_pure _

theorem keeps_nextmsg : Keeps P nextmsgAct := by
  unfold nextmsgAct
  refine Holds.bind (keeps_need _) fun _ => Holds.bind (h.keeps_setTs _) fun _ => ?_
  refine Holds.ite (fun _ => ?_) fun _ => h.keeps_terminate
  exact Holds.bind (keeps_need _) fun _ =>
    Holds.ite (fun _ => h.keeps_advanceSignal) fun _ => h.keeps_advanceMerged

theorem keeps_guardBody : Keeps P guardBody :=
  Holds.bind (h.keeps_clearCommand _) fun _ => h.keeps_command _

theorem keeps_arblBody : Keeps P arblBody :=
  Holds.bind (h.keeps_clearCommand _) fun _ => Holds.bind (h.keeps_setTs _) fun _ => h.keeps_stopAct

theorem keeps_txNakBody : Keeps P txNakBody :=
  Holds.bind (h.keeps_setTs _) fun _ => h.keeps_stopAct

theorem keeps_txWrByteBody (m : Message) : Keeps P (txWrByteBody m) :=
  Holds.bind (keeps_need _) fun _ => Holds.bind (keeps_bufRead m _) fun _ =>
    Holds.bind (h.keeps_writeD _) fun _ => h.keeps_setTs _

theorem keeps_txWrMergeBody : Keeps P txWrMergeBody :=
  Holds.bind keeps_curMsg fun _ => Holds.bind (keeps_bufRead _ _) fun _ =>
    Holds.bind (h.keeps_writeD _) fun _ => h.keeps_setTs _

theorem keeps_txWrDoneBody : Keeps P txWrDoneBody := by
  unfold txWrDoneBody
  exact Holds.bind h.keeps_nextmsg fun _ =>
    Holds.ite (fun _ => h.keeps_txWrMergeBody) fun _ => keeps_pure _

theorem keeps_txRdNoackBody : Keeps P txRdNoackBody :=
  Holds.bind (h.keeps_command _) fun _ => Holds.bind h.keeps_readD fun _ => keeps_pure _

theorem keeps_txRdAckBody : Keeps P txRdAckBody :=
  Holds.bind (h.keeps_command _) fun _ => Holds.bind h.keeps_readD fun _ => keeps_pure _

theorem keeps_rxLastTailBody (m : Message) : Keeps P (rxLastTailBody m) :=
  Holds.bind (h.keeps_consumeByte m) fun _ => Holds.bind h.keeps_nextmsg fun _ => keeps_pure _

theorem keeps_branchBody (b : Branch) (m : Message) : Keeps P (branchBody b m) := by
  cases b
  · exact h.keeps_guardBody
  · exact h.keeps_arblBody
  · exact h.keeps_txNakBody
  · exact h.keeps_txWrByteBody m
  · exact h.keeps_txWrDoneBody
  · exact h.keeps_txWrMergeBody
  · exact h.keeps_txRdNoackBody
  · exact h.keeps_txRdAckBody
  · exact Holds.bind (h.keeps_command _) fun _ => h.keeps_rxLastTailBody m
  · exact Holds.bind (h.keeps_command _) fun _ => h.keeps_rxLastTailBody m
  · exact h.keeps_rxLastTailBody m
  · exact Holds.bind (h.keeps_command _) fun _ => h.keeps_consumeByte m
  · exact h.keeps_consumeByte m

theorem keeps_branchAct (L : Layout) (b : Branch) (v : Vec16) : Keeps P (branchAct L b v) := by
  unfold branchAct
  refine Holds.ite (fun _ => ?_) fun _ => keeps_pure _
  exact Holds.bind keeps_curMsg fun m => Holds.bind (keeps_branchCond b m) fun _ =>
    Holds.ite (fun _ => h.keeps_branchBody b m) fun _ => keeps_pure _

theorem keeps_txBranch (L : Layout) (st : Byte) (m : Message) : Keeps P (txBranch L st m) := by
  unfold txBranch
  refine Holds.ite (fun _ => h.keeps_txNakBody) fun _ => ?_
  refine Holds.ite (fun _ => ?_) fun _ => ?_
  · exact Holds.bind (keeps_need _) fun _ =>
      Holds.ite (fun _ => h.keeps_txWrDoneBody) fun _ => h.keeps_txWrByteBody m
  · refine Holds.ite (fun _ => ?_) fun _ => h.keeps_txRdAckBody
    exact Holds.bind (keeps_need _) fun _ =>
      Holds.ite (fun _ => h.keeps_txRdNoackBody) fun _ => h.keeps_txRdAckBody

theorem keeps_rxBranch (m : Message) : Keeps P (rxBranch m) := by
  unfold rxBranch
  refine Holds.bind (keeps_need _) fun _ => Holds.ite (fun _ => ?_) fun _ => Holds.ite (fun _ => ?_) fun _ => ?_
  · refine Holds.bind (keeps_need _) fun _ =>
      Holds.ite (fun _ => h.keeps_branchBody .rxLastRestart m) fun _ => ?_
    exact Holds.bind (keeps_need _) fun _ => Holds.bind (keeps_msgAt _) fun _ =>
      Holds.ite (fun _ => h.keeps_branchBody .rxLastMerge1 m) fun _ =>
        h.keeps_branchBody .rxLastMerge m
  · exact Holds.bind (keeps_need _) fun _ =>
      Holds.ite (fun _ => h.keeps_branchBody .rxPenultRestart m) fun _ =>
        h.keeps_branchBody .rxByte m
  · exact h.keeps_branchBody .rxByte m

theorem keeps_clearMode (st : Byte) : Keeps P (clearMode st) := by
  unfold clearMode
  refine Holds.bind (h.keeps_clearCommand _) fun _ =>
    Holds.bind (R := fun _ => P) (Holds.readC1 fun s hs => h.readC1 s hs) fun _ => ?_
  exact Holds.bind keeps_curMsg fun m => Holds.bind (keeps_look _) fun L =>
    Holds.ite (fun _ => h.keeps_txBranch L st m) fun _ => h.keeps_rxBranch m

/-- Every invocation of the handler keeps a handler-stable property (R130 to R146). -/
theorem keeps_isr : Keeps P isr := by
  unfold isr
  refine Holds.bind (R := fun _ => P) (Holds.readS fun s hs => h.readS s hs) fun st => ?_
  refine Holds.bind keeps_guardHolds fun _ => Holds.bind (keeps_look _) fun _ =>
    Holds.ite (fun _ => h.keeps_guardBody) fun _ => ?_
  exact Holds.ite (fun _ => h.keeps_arblBody) fun _ => h.keeps_clearMode st

end HandlerStable

end Sys2Proof.Machine
end

