-- ==== Sys2Proof/Tests/Slice0.lean ====
section
/-! SUPPORT. The checks of our own work: the WellFormed smoke, one word written out from the spec's
encoding for every row that has one, single steps whose results are those of 95_test_vectors.md (the
vector is named in each docstring), and a state and operands that meet the hypotheses of each
statement. -/

namespace Sys2Proof.Tests

open Sys2Proof Sys2Proof.Machine Sys2Proof.Claims

/-! ## WellFormed: each check refuses an ill-formed term -/

/-- Row 1 needs V[4] = 1. -/
theorem test_wf_arbl : WellFormed .default (.isrArbl 0xF022#16) = false := by decide
/-- V-ENC-8 is row 1. -/
theorem test_wf_arbl_ok : WellFormed .default (.isrArbl 0xF032#16) = true := by decide
/-- No acknowledgement failure in V. -/
theorem test_wf_txNak : WellFormed .default (.isrTxNak 0xF022#16) = false := by decide
/-- RXAK set. -/
theorem test_wf_txWrByte : WellFormed .default (.isrTxWrByte 0xF023#16) = false := by decide
theorem test_wf_txWrDone : WellFormed .default (.isrTxWrDone 0xF032#16) = false := by decide
theorem test_wf_txWrMerge : WellFormed .default (.isrTxWrMerge 0xE022#16) = false := by decide
theorem test_wf_txRdNoack : WellFormed .default (.isrTxRdNoack 0xE822#16) = false := by decide
theorem test_wf_txRdAck : WellFormed .default (.isrTxRdAck 0xE022#16) = false := by decide
/-- Transmit mode. -/
theorem test_wf_rxLastRestart : WellFormed .default (.isrRxLastRestart 0xF022#16) = false := by decide
theorem test_wf_rxLastMerge1 : WellFormed .default (.isrRxLastMerge1 0xF022#16) = false := by decide
theorem test_wf_rxLastMerge : WellFormed .default (.isrRxLastMerge 0xE032#16) = false := by decide
theorem test_wf_rxPenultRestart : WellFormed .default (.isrRxPenultRestart 0xF422#16) = false := by decide
theorem test_wf_rxByte : WellFormed .default (.isrRxByte 0xE832#16) = false := by decide
/-- V-ENC-10: RXAK is not tested in receive mode. -/
theorem test_wf_rxByte_ok : WellFormed .default (.isrRxByte 0xE023#16) = true := by decide
/-- A snapshot with ARBL set has been taken by R132 already. -/
theorem test_wf_clearMode : WellFormed .default (.isrClearMode 0x32#8) = false := by decide
/-- More messages than the array holds. -/
theorem test_wf_transfer : WellFormed .default (.transfer 0 [] 1) = false := by decide
theorem test_wf_call : WellFormed .default (.call 0 .thread [] 1) = false := by decide
/-- WDT_TIMEOUT is positive (R6). -/
theorem test_wf_wdtArm : WellFormed .default (.wdtArm 0 1) = false := by decide
/-- C1 bits 1 and 0 are written 0 (R81). -/
theorem test_wf_busCondition : WellFormed .default (.envBusCondition 0xF1#8) = false := by decide

/-! ## Decoding: the word of R84 to R88, bit by bit -/

theorem test_decode_cmdStart : decode .default (.c1Write false 0b11110000#8) = .ok .cmdStart := rfl
theorem test_decode_cmdRestart : decode .default (.c1Write true 0b11110100#8) = .ok .cmdRestart := rfl
theorem test_decode_cmdRxAck : decode .default (.c1Write true 0b11100000#8) = .ok .cmdRxAck := rfl
theorem test_decode_cmdRxNoack : decode .default (.c1Write true 0b11101000#8) = .ok .cmdRxNoack := rfl
theorem test_decode_cmdTx : decode .default (.c1Write true 0b11110000#8) = .ok .cmdTx := rfl
theorem test_decode_cmdStop : decode .default (.c1Write true 0b11000000#8) = .ok .cmdStop := rfl
theorem test_decode_cmdIdle : decode .default (.c1Write false 0b10000000#8) = .ok .cmdIdle := rfl
theorem test_decode_clrAll : decode .default (.sWrite 0b00010010#8) = .ok .clrAll := rfl
theorem test_decode_clrIf : decode .default (.sWrite 0b00000010#8) = .ok .clrIf := rfl
/-- V-ENC-1. -/
theorem test_decode_addrW : decode .default (.addrWrite 0b10100000#8) = .ok (.addrW 0b1010000#7) := rfl
/-- V-ENC-4. -/
theorem test_decode_addrR : decode .default (.addrWrite 0b11111111#8) = .ok (.addrR 0b1111111#7) := rfl
theorem test_decode_dataW : decode .default (.dataWrite 0b00010001#8) = .ok (.dataW 0x11#8) := rfl
theorem test_decode_dataR : decode .default .dataRead = .ok .dataR := rfl
theorem test_decode_dummyR : decode .default .dummyRead = .ok .dummyR := rfl
theorem test_decode_freqF : decode .default (.fWrite 0b01000101#8) = .ok (.freqF 0x45#8) := rfl
theorem test_decode_freqFlt : decode .default (.fltWrite 0b00000011#8) = .ok (.freqFlt 0x03#8) := rfl
theorem test_decode_rdS : decode .default .sRead = .ok .rdS := rfl
theorem test_decode_rdC1 : decode .default .c1Read = .ok .rdC1 := rfl
theorem test_decode_isrGuard :
    decode .default (.dispatch .guard 0b0000000000000000#16) = .ok (.isrGuard 0x0000#16) := rfl
/-- V-ENC-11: arbitration beats everything. -/
theorem test_decode_isrArbl :
    decode .default (.dispatch .arbl 0b1110100000110011#16) = .ok (.isrArbl 0xE833#16) := rfl
/-- V-ENC-9. -/
theorem test_decode_isrTxNak :
    decode .default (.dispatch .txNak 0b1111000000100011#16) = .ok (.isrTxNak 0xF023#16) := rfl
theorem test_decode_isrTxWrByte :
    decode .default (.dispatch .txWrByte 0b1111000000100010#16) = .ok (.isrTxWrByte 0xF022#16) := rfl
theorem test_decode_isrTxWrDone :
    decode .default (.dispatch .txWrDone 0b0001000000000000#16) = .ok (.isrTxWrDone 0x1000#16) := rfl
theorem test_decode_isrTxWrMerge :
    decode .default (.dispatch .txWrMerge 0b1111000000100010#16) = .ok (.isrTxWrMerge 0xF022#16) := rfl
theorem test_decode_isrTxRdNoack :
    decode .default (.dispatch .txRdNoack 0b1111010000100010#16) = .ok (.isrTxRdNoack 0xF422#16) := rfl
theorem test_decode_isrTxRdAck :
    decode .default (.dispatch .txRdAck 0b1111010000100010#16) = .ok (.isrTxRdAck 0xF422#16) := rfl
theorem test_decode_isrRxLastRestart :
    decode .default (.dispatch .rxLastRestart 0b1110100000100010#16) = .ok (.isrRxLastRestart 0xE822#16) := rfl
theorem test_decode_isrRxLastMerge1 :
    decode .default (.dispatch .rxLastMerge1 0b1110000000100010#16) = .ok (.isrRxLastMerge1 0xE022#16) := rfl
theorem test_decode_isrRxLastMerge :
    decode .default (.dispatch .rxLastMerge 0b1110000000100010#16) = .ok (.isrRxLastMerge 0xE022#16) := rfl
theorem test_decode_isrRxPenultRestart :
    decode .default (.dispatch .rxPenultRestart 0b1110000000100010#16) = .ok (.isrRxPenultRestart 0xE022#16) :=
  rfl
/-- V-ENC-10. -/
theorem test_decode_isrRxByte :
    decode .default (.dispatch .rxByte 0b1110000000100011#16) = .ok (.isrRxByte 0xE023#16) := rfl
/-- R90: no other control value, no other status value, no vector outside the row. -/
theorem test_decode_refuses_control : decode .default (.c1Write true 0xF8#8) = .error .noSuchControlValue := rfl
theorem test_decode_refuses_status : decode .default (.sWrite 0x10#8) = .error .noSuchStatusValue := rfl
theorem test_decode_refuses_vector :
    decode .default (.dispatch .rxByte 0xF022#16) = .error .patternMismatch := rfl

/-- LAYOUT is a parameter (R6): with EN at bit 0 and MST at bit 1, CMD_STOP is {EN, IE} = 41H, and the
default's byte is no command. -/
theorem test_decode_other_layout :
    decode { Layout.default with en := 0, mst := 1 } (.c1Write true 0x41#8) = .ok .cmdStop ∧
      decode { Layout.default with en := 0, mst := 1 } (.c1Write true 0xC0#8) =
        .error .noSuchControlValue := ⟨rfl, rfl⟩

/-! ## States for single steps -/

/-- `W(addr, n bytes at buf)` at 100000 Hz (R95); `nr` is the norestart flag. -/
def wr (addr : Addr7) (buf : Nat) (n : Int) (nr : Bool) : Message where
  addr := addr
  read := false
  norestart := nr
  nostart := false
  otherFlag := false
  extended := false
  buffer := buf
  length := n
  frequency := 100000

/-- `R(addr, n)` with its buffer at `buf`. -/
def rd (addr : Addr7) (buf : Nat) (n : Int) (nr : Bool) : Message :=
  { wr addr buf n nr with read := true }

/-- A record in generation 1 with the registers of the vector; `idx + nmsg` is the length. -/
def inCall (msgs : List Message) (idx written read : Int) (restart : Bool) (c1 st : Byte) : State :=
  { State.reset with
    ts :=
      { msgs := some msgs, count := some msgs.length, idx := some idx
        nmsg := some (msgs.length - idx), written := some written, read := some read
        restart := some restart, status := some .ok, freqCache := some 100000 }
    gen := 1
    c1 := c1
    status := st }

/-- The same with thread 0 at a label. -/
def at0 (p : Phase) (s : State) : State := { s with callers := [(0, { Caller.atReset with pc := p })] }

/-- The next state of an instruction, seen through `f`. -/
def see {α : Type} (i : Instr) (s : State) (f : State → α) : Option α :=
  match exec i s with
  | .next t => some (f t)
  | .fault _ => none
  | .refused _ => none

/-- A caller memory with the bytes 11 22 at 0 and 33 at 8. -/
def mem2 : List Host.Cell := [(0, 0x11#8), (1, 0x22#8), (8, 0x33#8)]

/-! ## Register commands (2.8) -/

/-- V-ENV-1. -/
theorem test_cmdStart : see .cmdStart State.reset (fun t => (t.bus, t.status, t.c1)) =
    some ([.start], 0x20#8, 0xF0#8) := rfl
/-- V-ENV-2. -/
theorem test_cmdRestart : see .cmdRestart { State.reset with c1 := 0xF0#8 } (fun t => (t.bus, t.c1)) =
    some ([.restart], 0xF4#8) := rfl
theorem test_cmdRxAck : see .cmdRxAck { State.reset with c1 := 0xF4#8 } (fun t => (t.bus, t.c1)) =
    some ([], 0xE0#8) := rfl
theorem test_cmdRxNoack : see .cmdRxNoack { State.reset with c1 := 0xE0#8 } (fun t => (t.bus, t.c1)) =
    some ([], 0xE8#8) := rfl
/-- V-ENV-5. -/
theorem test_cmdTx : see .cmdTx { State.reset with c1 := 0xE0#8 } (fun t => (t.bus, t.c1)) =
    some ([], 0xF0#8) := rfl
/-- V-ENV-3. -/
theorem test_cmdStop :
    see .cmdStop { State.reset with c1 := 0xF0#8, status := 0x20#8, pending := .txByte 0xA0#8 }
      (fun t => (t.bus, t.status, t.pending)) = some ([.stop], 0x00#8, .none) := rfl
/-- V-ENV-4. -/
theorem test_cmdIdle : see .cmdIdle { State.reset with c1 := 0xC0#8 } (fun t => (t.bus, t.c1)) =
    some ([], 0x80#8) := rfl
/-- V-ENV-12. -/
theorem test_clrAll : see .clrAll { State.reset with status := 0x13#8 } (·.status) = some 0x01#8 := rfl
theorem test_clrIf : see .clrIf { State.reset with status := 0x32#8 } (·.status) = some 0x30#8 := rfl
/-- V-ENV-6. -/
theorem test_addrW : see (.addrW 0x50#7) { State.reset with c1 := 0xF0#8 } (·.pending) =
    some (.txByte 0xA0#8) := rfl
/-- V-ENC-3. -/
theorem test_addrR : see (.addrR 0x00#7) { State.reset with c1 := 0xF0#8 } (·.pending) =
    some (.txByte 0x01#8) := rfl
/-- R229: a write of D outside master-transmit mode starts nothing. -/
theorem test_dataW : see (.dataW 0x5C#8) { State.reset with c1 := 0xE0#8 } (·.pending) =
    some .none := rfl
/-- R87, R64: the byte goes to index `ts.read`. -/
theorem test_dataR :
    see .dataR { inCall [rd 0x50 8 2 false] 0 0 1 true 0xF0#8 0x22#8 with rxLatch := 0xC3#8 }
      (fun t => (t.mem, t.pending, t.ts.read)) = some ([(9, 0xC3#8)], .none, some 1) := rfl
/-- V-ENV-9. -/
theorem test_dummyR : see .dummyR { State.reset with c1 := 0xE8#8, rxLatch := 0x77#8 }
    (fun t => (t.pending, t.cmds)) = some (.rxByte false, [.read .d 0x77#8]) := rfl
theorem test_freqF : see (.freqF 0x45#8) State.reset (fun t => (t.f, t.flt)) =
    some (0x45#8, 0x00#8) := rfl
theorem test_freqFlt : see (.freqFlt 0x03#8) State.reset (fun t => (t.f, t.flt)) =
    some (0x00#8, 0x03#8) := rfl
theorem test_rdS : see .rdS { State.reset with status := 0x22#8 } (fun t => (t.out, t.cmds)) =
    some (.byte 0x22#8, [.read .s 0x22#8]) := rfl
theorem test_rdC1 : see .rdC1 State.reset (fun t => (t.out, t.cmds)) =
    some (.byte 0x80#8, [.read .c1 0x80#8]) := rfl

/-! ## The interrupt handler (2.4) -/

/-- V-ISR-1. -/
theorem test_isrGuard :
    see (.isrGuard 0xF022#16)
      { inCall [wr 0x50 0 1 false] 0 0 0 true 0xF0#8 0x22#8 with
        ts := { (inCall [wr 0x50 0 1 false] 0 0 0 true 0xF0#8 0x22#8).ts with status := some .timeout } }
      (fun t => (t.cmds, t.bus, t.doneGen, t.ts.status)) =
    some ([.write .s 0x12#8, .write .c1 0xC0#8], [.stop], 0, some .timeout) := rfl
/-- An open record is not guarded. -/
theorem test_isrGuard_open :
    see (.isrGuard 0xF022#16) (inCall [wr 0x50 0 1 false] 0 0 0 true 0xF0#8 0x22#8) (·.cmds) =
    some [] := rfl
/-- V-ISR-5. -/
theorem test_isrArbl :
    see (.isrArbl 0xD033#16) (inCall [wr 0x50 0 1 false] 0 0 0 true 0xD0#8 0x33#8)
      (fun t => (t.cmds, t.bus, t.doneGen, t.ts.status)) =
    some ([.write .s 0x12#8, .write .c1 0xC0#8], [], 1, some .arbitrationLost) := rfl
/-- V-ISR-3. -/
theorem test_isrTxNak :
    see (.isrTxNak 0xF023#16) (inCall [wr 0x50 0 3 false] 0 2 0 true 0xF0#8 0x21#8)
      (fun t => (t.cmds, t.doneGen, t.ts.status, t.ts.written)) =
    some ([.write .c1 0xC0#8], 1, some .nak, some 2) := rfl
/-- V-ISR-6. -/
theorem test_isrTxWrByte :
    see (.isrTxWrByte 0xF022#16) { inCall [wr 0x50 0 2 false] 0 0 0 true 0xF0#8 0x20#8 with mem := mem2 }
      (fun t => (t.cmds, t.pending, t.ts.written)) =
    some ([.write .d 0x11#8], .txByte 0x11#8, some 1) := rfl
/-- V-ISR-9. -/
theorem test_isrTxWrDone :
    see (.isrTxWrDone 0xF022#16) (inCall [wr 0x50 0 1 false, rd 0x50 4 2 false] 0 1 0 true 0xF0#8 0x20#8)
      (fun t => (t.ts.idx, t.ts.nmsg, t.ts.written, t.ts.restart, t.doneGen, t.cmds)) =
    some (some 1, some 1, some 0, some true, 1, []) := rfl
/-- V-ISR-8. -/
theorem test_isrTxWrDone_merge :
    see (.isrTxWrDone 0xF022#16)
      { inCall [wr 0x50 0 2 false, wr 0x50 8 1 true] 0 2 0 false 0xF0#8 0x20#8 with mem := mem2 }
      (fun t => (t.ts.idx, t.ts.nmsg, t.ts.written, t.ts.restart, t.doneGen, t.cmds)) =
    some (some 1, some 1, some 1, some true, 0, [.write .d 0x33#8]) := rfl
/-- V-ISR-20, its last part: the merge into an empty message. -/
theorem test_isrTxWrMerge :
    see (.isrTxWrMerge 0xF022#16) (inCall [wr 0x50 0 1 false, wr 0x50 8 0 true] 1 0 0 true 0xF0#8 0x20#8)
      (fun t => (t.faults.bufferOverrun, t.handlerStopped, t.cmds)) = some (true, true, []) := rfl
/-- V-ISR-10. -/
theorem test_isrTxRdNoack :
    see (.isrTxRdNoack 0xF422#16)
      { inCall [rd 0x50 0 1 false] 0 0 0 true 0xF4#8 0x20#8 with rxLatch := 0x99#8 }
      (fun t => (t.pending, t.cmds)) =
    some (.rxByte false, [.write .c1 0xE8#8, .read .d 0x99#8]) := rfl
/-- V-ISR-11. -/
theorem test_isrTxRdAck :
    see (.isrTxRdAck 0xF022#16) (inCall [rd 0x50 0 1 false, rd 0x50 4 1 true] 0 0 0 false 0xF0#8 0x20#8)
      (fun t => (t.pending, t.c1)) = some (.rxByte true, 0xE0#8) := rfl
/-- V-ISR-13. -/
theorem test_isrRxLastRestart :
    see (.isrRxLastRestart 0xE822#16)
      { inCall [rd 0x50 0 2 false] 0 0 1 true 0xE8#8 0x20#8 with rxLatch := 0xC3#8 }
      (fun t => (t.cmds, t.mem, t.ts.read, t.ts.nmsg, t.doneGen, t.pending)) =
    some ([.write .c1 0xF0#8, .read .d 0xC3#8, .write .c1 0xC0#8], [(1, 0xC3#8)], some 2, some 0, 1,
      .none) := rfl
/-- V-ISR-14. -/
theorem test_isrRxLastMerge1 :
    see (.isrRxLastMerge1 0xE022#16)
      { inCall [rd 0x50 0 1 false, rd 0x50 4 1 true] 0 0 0 false 0xE0#8 0x20#8 with rxLatch := 0x11#8 }
      (fun t => (t.cmds, t.mem, t.ts.idx, t.ts.restart, t.doneGen, t.pending)) =
    some ([.write .c1 0xE8#8, .read .d 0x11#8], [(0, 0x11#8)], some 1, some true, 0, .rxByte false) :=
  rfl
/-- V-ISR-15. -/
theorem test_isrRxLastMerge :
    see (.isrRxLastMerge 0xE022#16)
      { inCall [rd 0x50 0 3 false, rd 0x50 4 2 true] 0 0 2 false 0xE0#8 0x20#8 with rxLatch := 0x33#8 }
      (fun t => (t.cmds, t.mem, t.ts.idx, t.ts.restart, t.doneGen, t.pending)) =
    some ([.read .d 0x33#8], [(2, 0x33#8)], some 1, some true, 0, .rxByte true) := rfl
/-- V-ISR-16. -/
theorem test_isrRxPenultRestart :
    see (.isrRxPenultRestart 0xE022#16)
      { inCall [rd 0x50 0 2 false] 0 0 0 true 0xE0#8 0x20#8 with rxLatch := 0x3C#8 }
      (fun t => (t.cmds, t.mem, t.ts.read, t.pending)) =
    some ([.write .c1 0xE8#8, .read .d 0x3C#8], [(0, 0x3C#8)], some 1, .rxByte false) := rfl
/-- V-ISR-17. -/
theorem test_isrRxByte :
    see (.isrRxByte 0xE022#16)
      { inCall [rd 0x50 0 4 false] 0 0 1 true 0xE0#8 0x20#8 with rxLatch := 0x42#8 }
      (fun t => (t.cmds, t.mem, t.ts.read, t.pending)) =
    some ([.read .d 0x42#8], [(1, 0x42#8)], some 2, .rxByte true) := rfl
/-- V-ISR-19. -/
theorem test_isrRxByte_empty :
    see (.isrRxByte 0xE022#16) (inCall [rd 0x50 0 0 false] 0 0 0 true 0xE0#8 0x20#8)
      (fun t => (t.faults.bufferOverrun, t.handlerStopped, t.pending, t.ts.read)) =
    some (true, true, .rxByte true, some 0) := rfl
/-- V-ISR-4. -/
theorem test_isrEntry :
    see .isrEntry (inCall [wr 0x50 0 1 false] 0 0 0 true 0xD0#8 0x32#8)
      (fun t => (t.cmds, t.bus, t.ts.status)) =
    some ([.read .s 0x32#8, .write .s 0x12#8, .write .c1 0xC0#8], [], some .arbitrationLost) := rfl
/-- V-ISR-7. -/
theorem test_isrEntry_done :
    see .isrEntry (inCall [wr 0x50 0 2 false] 0 2 0 true 0xF0#8 0x22#8)
      (fun t => (t.cmds, t.ts.nmsg, t.doneGen)) =
    some ([.read .s 0x22#8, .write .s 0x02#8, .read .c1 0xF0#8, .write .c1 0xC0#8], some 0, 1) := rfl
/-- V-ISR-21. -/
theorem test_isrClearMode :
    see (.isrClearMode 0x22#8) (inCall [wr 0x50 0 0 false] 0 0 0 true 0xF0#8 0x22#8)
      (fun t => (t.cmds, t.ts.nmsg, t.doneGen)) =
    some ([.write .s 0x02#8, .read .c1 0xF0#8, .write .c1 0xC0#8], some 0, 1) := rfl
/-- V-ISR-18. -/
theorem test_isrRxDispatch :
    see .isrRxDispatch
      { inCall [rd 0x50 0 2 false, rd 0x50 4 1 true] 0 0 0 false 0xE0#8 0x20#8 with rxLatch := 0x3C#8 }
      (fun t => (t.cmds, t.mem, t.ts.read)) = some ([.read .d 0x3C#8], [(0, 0x3C#8)], some 1) := rfl
/-- V-ISR-22. -/
theorem test_isrRxDispatch_stale :
    see .isrRxDispatch
      { inCall [rd 0x50 0 1 false, rd 0x50 4 1 true] 1 0 0 false 0xE8#8 0x20#8 with
        params := { Params.default with restartMode := .perStep } }
      (fun t => (t.faults.noNextMessage, t.handlerStopped, t.cmds)) = some (true, true, []) := rfl
theorem test_isrRxLastTail :
    see .isrRxLastTail { inCall [rd 0x50 0 1 false] 0 0 0 true 0xF0#8 0x20#8 with rxLatch := 0x5A#8 }
      (fun t => (t.cmds, t.mem, t.bus)) =
    some ([.read .d 0x5A#8, .write .c1 0xC0#8], [(0, 0x5A#8)], [.stop]) := rfl
/-- V-ISR-2, and V-ENV-13: with IE = 0 the handler is not enabled. -/
theorem test_irqDeliver_guard :
    see .irqDeliver (inCall [wr 0x50 0 1 false] 1 1 0 true 0xC0#8 0x02#8) (fun t => (t.cmds, t.bus)) =
    some ([.read .s 0x02#8, .write .s 0x12#8, .write .c1 0xC0#8], []) := rfl
theorem test_irqDeliver_masked :
    see .irqDeliver { State.reset with status := 0x02#8 } (fun t => (t.cmds, t.status)) =
    some ([], 0x02#8) := rfl

/-! ## The walker (2.5) -/

/-- Three writes of one byte, the second merged with the first. -/
def three : List Message := [wr 0x50 0 1 false, wr 0x50 1 1 true, wr 0x50 2 4 true]

/-- V-WLK-1. -/
theorem test_nextmsg_signalled :
    see .nextmsg (inCall three 0 1 0 true 0xF0#8 0x20#8)
      (fun t => (t.out, t.ts.nmsg, t.ts.idx, t.ts.restart, t.doneGen)) =
    some (.outcome .advancedSignalled, some 2, some 1, some false, 1) := rfl
/-- V-WLK-3. -/
theorem test_nextmsg_terminated :
    see .nextmsg (inCall three 2 4 0 true 0xF0#8 0x20#8)
      (fun t => (t.out, t.ts.nmsg, t.ts.idx, t.ts.written, t.c1, t.doneGen)) =
    some (.outcome .terminated, some 0, some 2, some 4, 0xC0#8, 1) := rfl
theorem test_advanceSignal :
    see .advanceSignal (inCall three 1 1 0 true 0xF0#8 0x20#8)
      (fun t => (t.ts.idx, t.ts.written, t.ts.restart, t.doneGen)) =
    some (some 2, some 0, some true, 1) := rfl
/-- V-WLK-4. -/
theorem test_advanceMerged :
    see .advanceMerged
      { inCall three 0 1 0 false 0xF0#8 0x20#8 with
        params := { Params.default with restartMode := .perStep } }
      (fun t => (t.ts.idx, t.ts.restart, t.doneGen)) = some (some 1, some false, 0) := rfl
theorem test_restartRecompute :
    see .restartRecompute (inCall three 2 0 0 false 0xF0#8 0x20#8) (·.ts.restart) = some (some true) := rfl
theorem test_terminate :
    see .terminate (inCall three 2 4 0 true 0xF0#8 0x20#8) (fun t => (t.out, t.ts.written, t.bus)) =
    some (.outcome .terminated, some 4, [.stop]) := rfl
theorem test_stop :
    see .stop { State.reset with c1 := 0xD0#8, gen := 3 } (fun t => (t.c1, t.bus, t.doneGen)) =
    some (0xC0#8, [], 3) := rfl
/-- V-WLK-5. -/
theorem test_signal : see .signal { State.reset with gen := 4, doneGen := 4 } (·.doneGen) = some 4 := rfl

/-! ## Bus Acquisition (2.3) -/

/-- V-ACQ-1. -/
theorem test_aTest : see (.aTest 0) (at0 .aTest State.reset)
    (fun t => ((t.caller 0).mst, (t.caller 0).pc, t.cmds)) =
    some (false, .aWaitfree, [.read .c1 0x80#8]) := rfl
/-- V-ACQ-2. -/
theorem test_aTest_master : see (.aTest 0) (at0 .aTest { State.reset with c1 := 0xF0#8 })
    (fun t => ((t.caller 0).mst, (t.caller 0).pc)) = some (true, .aRestart) := rfl
/-- V-ACQ-8: MST cleared after the test, so the write issues START. -/
theorem test_aRestart : see (.aRestart 0) (at0 .aRestart { State.reset with c1 := 0xD0#8 })
    (fun t => (t.bus, t.c1, (t.caller 0).pc)) = some ([.start], 0xF4#8, .aAddr) := rfl
/-- V-ACQ-3. -/
theorem test_aWaitfree_busy : see (.aWaitfree 0) (at0 .aWaitfree { State.reset with status := 0x20#8 })
    (fun t => ((t.caller 0).pc, t.cmds)) = some (.aWaitfree, [.read .s 0x20#8]) := rfl
/-- V-ACQ-4. -/
theorem test_aWaitfree_free : see (.aWaitfree 0) (at0 .aWaitfree State.reset)
    (fun t => (t.caller 0).pc) = some .aStart := rfl
/-- V-ACQ-5. -/
theorem test_aStart : see (.aStart 0) (at0 .aStart State.reset)
    (fun t => (t.bus, t.c1, t.status)) = some ([.start], 0xF0#8, 0x20#8) := rfl
/-- V-ACQ-7. -/
theorem test_aAddr : see (.aAddr 0) (at0 .aAddr (inCall [rd 0x50 0 2 false] 0 0 0 true 0xF4#8 0x20#8))
    (fun t => (t.pending, t.cmds, (t.caller 0).pc)) =
    some (.txByte 0xA1#8, [.write .d 0xA1#8], .tArm) := rfl
theorem test_acquire : see (.acquire 0) (at0 .aTest State.reset) (fun t => (t.caller 0).pc) =
    some .aWaitfree := rfl

/-! ## The Coordinator (2.2, 2.6) -/

/-- V-CRD-1. -/
theorem test_call_interrupt : see (.call 0 .interrupt [wr 0x50 0 1 false] 1) State.reset
    (fun t => (t.refused, t.callers)) = some (true, []) := rfl
/-- R225: refused from timer context too, while thread 0 is inside a call (log entry 11). -/
theorem test_call_timer_busy : see (.call 0 .timer [wr 0x50 0 1 false] 1) (at0 .tWait State.reset)
    (fun t => (t.refused, (t.caller 0).pc)) = some (true, .tWait) := rfl
theorem test_call_thread : see (.call 0 .thread [wr 0x50 0 1 false] 1) State.reset
    (fun t => (t.refused, (t.caller 0).pc)) = some (false, .tLock) := rfl
/-- R6: of one caller thread, the second does not call. -/
theorem test_call_beyond :
    see (.call 1 .thread [wr 0x50 0 1 false] 1)
      { State.reset with params := { Params.default with nCallers := 1 } } (·.callers) = some [] := rfl
theorem test_transfer : see (.transfer 0 [wr 0x50 0 1 false] 1) (at0 .tClear State.reset)
    (fun t => ((t.caller 0).pc, t.cmds)) = some (.tLoop, [.write .s 0x12#8]) := rfl
/-- V-CRD-2. -/
theorem test_tLock_taken : see (.tLock 0) (at0 .tLock { State.reset with locked := true })
    (fun t => (t.caller 0).pc) = some .tLock := rfl
theorem test_tLock_free : see (.tLock 0) (at0 .tLock State.reset)
    (fun t => (t.locked, (t.caller 0).pc)) = some (true, .tInit) := rfl
/-- V-CRD-3. -/
theorem test_tInit_refuses :
    see (.tInit 0)
      { State.reset with
        callers := [(0, { Caller.atReset with pc := .tInit, msgs := [rd 0x50 0 (-1) false], count := 1 })] }
      (fun t => (t.refused, t.ts.count)) = some (true, none) := rfl
/-- V-CRD-4. -/
theorem test_tInit_empty : see (.tInit 0) (at0 .tInit State.reset)
    (fun t => (t.faults.emptyChain, (t.caller 0).stopped, t.refused)) = some (true, true, false) := rfl
/-- V-CRD-6. -/
theorem test_tFreq_cached :
    see (.tFreq 0) (at0 .tFreq (inCall [wr 0x50 0 1 false] 0 0 0 true 0x80#8 0x00#8))
      (fun t => (t.cmds, (t.caller 0).pc)) = some ([], .tClear) := rfl
/-- V-CRD-5; the values are the table's, so only the cache is looked at. -/
theorem test_setFrequency : see (.setFrequency 100000) State.reset (·.ts.freqCache) =
    some (some 100000) := rfl
theorem test_tClear : see (.tClear 0) (at0 .tClear { State.reset with status := 0x13#8 })
    (fun t => (t.status, (t.caller 0).pc)) = some (0x01#8, .tLoop) := rfl
/-- V-CRD-8. -/
theorem test_tLoop :
    see (.tLoop 0)
      (at0 .tLoop { State.reset with
        ts := { TransferState.unset with nmsg := some 1, status := some .nak } })
      (fun t => (t.caller 0).pc) = some .tExit := rfl
theorem test_tLoop_more :
    see (.tLoop 0) (at0 .tLoop (inCall three 0 0 0 false 0x80#8 0x00#8)) (fun t => (t.caller 0).pc) =
    some .tStep := rfl
/-- V-CRD-9. -/
theorem test_tStep :
    see (.tStep 0)
      (at0 .tStep { inCall [wr 0x50 0 1 false, wr 0x50 1 1 true] 0 0 0 true 0x80#8 0x00#8 with gen := 3 })
      (fun t => (t.gen, t.ts.restart)) = some (4, some false) := rfl
/-- V-MRG-1. -/
theorem test_restartFor_merges :
    see (.restartFor .handler 0) (inCall [wr 0x50 0 1 false, wr 0x50 1 1 true] 0 0 0 true 0x80#8 0x00#8)
      (·.out) = some (.bool false) := rfl
/-- V-MRG-5. -/
theorem test_restartFor_direction :
    see (.restartFor .handler 0) (inCall [wr 0x50 0 1 false, rd 0x50 1 1 true] 0 0 0 true 0x80#8 0x00#8)
      (·.out) = some (.bool true) := rfl
/-- V-CRD-10. -/
theorem test_tAcq_nostart :
    see (.tAcq 0)
      (at0 .tAcq (inCall [{ wr 0x50 0 1 false with nostart := true }] 0 0 0 true 0x80#8 0x00#8))
      (fun t => ((t.caller 0).pc, t.cmds)) = some (.tArm, []) := rfl
theorem test_tAcq :
    see (.tAcq 0) (at0 .tAcq (inCall [wr 0x50 0 1 false] 0 0 0 true 0x80#8 0x00#8))
      (fun t => (t.caller 0).pc) = some .aTest := rfl
theorem test_tArm : see (.tArm 0) (at0 .tArm { State.reset with gen := 4 })
    (fun t => (t.wdtArmed, t.wdtCtx, (t.caller 0).pc)) = some (true, 4, .tWait) := rfl
/-- V-CRD-11. -/
theorem test_tWait : see (.tWait 0) (at0 .tWait { State.reset with gen := 4, doneGen := 4 })
    (fun t => (t.caller 0).pc) = some .tCancel := rfl
/-- R182, its example: `gen = 4`, `done_gen = 3`: no step. -/
theorem test_tWait_holds : see (.tWait 0) (at0 .tWait { State.reset with gen := 4, doneGen := 3 })
    (fun t => (t.caller 0).pc) = some .tWait := rfl
theorem test_tCancel : see (.tCancel 0) (at0 .tCancel { State.reset with wdtArmed := true })
    (fun t => (t.wdtArmed, (t.caller 0).pc)) = some (false, .tLoop) := rfl
/-- P5: the exit write is the STOP of the timeout path. -/
theorem test_tExit :
    see (.tExit 0)
      (at0 .tExit { State.reset with c1 := 0xF0#8, status := 0x20#8, pending := .txByte 0xA1#8 })
      (fun t => (t.c1, t.bus, t.status, t.pending)) = some (0x80#8, [.stop], 0x00#8, .none) := rfl
/-- V-CRD-12. -/
theorem test_tResult :
    see (.tResult 0)
      (at0 .tResult { State.reset with ts := { TransferState.unset with status := some .timeout } })
      (fun t => (t.caller 0).result) = some (-5) := rfl
theorem test_tUnlock :
    see (.tUnlock 0)
      { State.reset with
        locked := true
        callers := [(0, { Caller.atReset with pc := .tUnlock, result := -5 })] }
      (fun t => (t.locked, (t.caller 0).pc, t.returns)) = some (false, .idle, [(0, -5)]) := rfl
/-- V-CRD-13. -/
theorem test_reset : see .reset State.reset id = some { State.reset with out := .int 0 } := rfl

/-! ## The watchdog (2.7) -/

theorem test_wdtArm : see (.wdtArm 1 7) State.reset (fun t => (t.wdtArmed, t.wdtCtx)) =
    some (true, 7) := rfl
/-- V-WDT-5. -/
theorem test_wdtCancel : see .wdtCancel State.reset id = some State.reset := rfl
/-- V-WDT-1. -/
theorem test_wdtExpire :
    see .wdtExpire
      { inCall [rd 0x50 0 1 false] 0 0 0 true 0xF0#8 0x20#8 with wdtArmed := true, wdtCtx := 1 }
      (fun t => (t.wdtArmed, t.ts.status, t.doneGen)) = some (false, some .timeout, 1) := rfl
/-- V-WDT-2. -/
theorem test_wdtExpire_loses :
    see .wdtExpire
      { inCall [rd 0x50 0 1 false] 0 0 0 true 0xF0#8 0x20#8 with
        wdtArmed := true, wdtCtx := 1, doneGen := 1 }
      (fun t => (t.wdtArmed, t.ts.status, t.doneGen)) = some (false, some .ok, 1) := rfl
/-- V-WDT-4. -/
theorem test_wdtHandler_stale :
    see (.wdtHandler 1) { inCall [rd 0x50 0 1 false] 0 0 0 true 0xF0#8 0x20#8 with gen := 2, doneGen := 1 }
      (fun t => (t.ts.status, t.doneGen)) = some (some .ok, 1) := rfl

/-! ## The environment and the primitives (2.8) -/

theorem test_envBusCondition : see (.envBusCondition 0x80#8) { State.reset with c1 := 0xE0#8 }
    (·.bus) = some [.stop] := rfl
/-- V-ENV-7. -/
theorem test_envTxComplete_nak :
    see (.envTxComplete .nak) { State.reset with c1 := 0xF0#8, pending := .txByte 0xA0#8 }
      (fun t => (t.bus, t.status, t.pending)) = some ([.sent 0xA0#8 false], 0x03#8, .none) := rfl
/-- V-ENV-8. -/
theorem test_envTxComplete_lost :
    see (.envTxComplete .lost) { State.reset with c1 := 0xF0#8, pending := .txByte 0xA0#8 }
      (fun t => (t.bus, t.status, t.c1)) = some ([.arbitrationLost], 0x12#8, 0xD0#8) := rfl
/-- V-ENV-11. -/
theorem test_envRxComplete :
    see (.envRxComplete (.byte 0x5A#8)) { State.reset with c1 := 0xE0#8, pending := .rxByte true }
      (fun t => (t.rxLatch, t.bus, t.status)) =
    some (0x5A#8, [.received 0x5A#8 true], 0x02#8) := rfl
/-- V-ENV-10. -/
theorem test_envDReadTx : see .envDReadTx { State.reset with c1 := 0xF0#8, rxLatch := 0x77#8 }
    (fun t => (t.out, t.pending)) = some (.byte 0x77#8, .none) := rfl
theorem test_envOtherMaster : see (.envOtherMaster true) State.reset (·.status) = some 0x20#8 := rfl
theorem test_bufRead :
    see (.bufReadWrite .handler (wr 0x50 0 2 false) 1 .read) { State.reset with mem := mem2 } (·.out) =
    some (.byte 0x22#8) := rfl
theorem test_bufWrite_overrun :
    see (.bufReadWrite .handler (wr 0x50 0 2 false) 2 (.write 0x01#8)) State.reset
      (fun t => (t.mem, t.faults.bufferOverrun)) = some ([], true) := rfl
theorem test_msg_beyond : see (.msg .handler 3) (inCall three 0 0 0 false 0x80#8 0x00#8)
    (fun t => (t.out, t.faults.noNextMessage)) = some (.none, true) := rfl
/-- R65: before the chain, on an unset record (log entry 13). -/
theorem test_msg_before : see (.msg .handler (-1)) State.reset
    (fun t => (t.faults.noNextMessage, t.faults.unsetRead)) = some (true, false) := rfl
theorem test_msg : see (.msg .handler 2) (inCall three 0 0 0 false 0x80#8 0x00#8) (·.out) =
    some (.message (wr 0x50 2 4 true)) := rfl
/-- R44: a read of an unset field. -/
theorem test_unsetRead : see .nextmsg State.reset (fun t => t.faults.unsetRead) = some true := rfl

/-! ## Witnesses: a state and operands that meet the hypotheses of each statement -/

/-- Thread 0 waits in generation 1 while the first byte of `three` is on the wire. -/
def mid : State :=
  { inCall three 0 1 0 false 0xF0#8 0x20#8 with
    locked := true
    wdtArmed := true
    wdtCtx := 1
    callers := [(0, { Caller.atReset with pc := .tWait, msgs := three, count := 3 })]
    pending := .txByte 0x11#8
    mem := mem2
    agenda := [.move .irq, .move (.thread 0)] }

theorem mid_caller (t : Nat) : mid.caller t =
    if 0 = t then { Caller.atReset with pc := .tWait, msgs := three, count := 3 }
    else Caller.atReset := rfl

theorem mid_pc {t : Nat} {f : Phase → Bool} (hi : f .idle = false) (h : f (mid.caller t).pc = true) :
    t = 0 := by
  rw [mid_caller] at h
  split at h
  · exact Eq.symm ‹_›
  · simp [Caller.atReset, hi] at h

theorem wit_step : ∃ t, step mid = .next t := ⟨_, rfl⟩

theorem wit_Canonical : Canonical mid := ⟨rfl, rfl⟩

theorem wit_PeripheralSound : PeripheralSound mid := by
  refine ⟨rfl, rfl, fun _ => rfl, fun _ => rfl, rfl⟩

theorem wit_LockExclusive : LockExclusive mid :=
  ⟨fun _ _ ht hu => (mid_pc rfl ht).trans (mid_pc rfl hu).symm, fun _ => ⟨0, rfl⟩, fun _ => rfl⟩

theorem wit_WatchdogCovers : WatchdogCovers mid := fun _ => ⟨⟨0, .inl rfl⟩, rfl⟩

theorem wit_RecordGood : RecordGood mid three 3 0 3 1 0 .ok where
  msgs_eq := rfl
  count_eq := rfl
  idx_eq := rfl
  nmsg_eq := rfl
  written_eq := rfl
  read_eq := rfl
  status_eq := rfl
  idx_low := by decide
  idx_high := by decide
  nmsg_low := by decide
  cursor := fun _ => rfl
  lengths := by
    intro i hi
    have : i < 3 := by omega
    interval_cases i <;> decide
  bytes := by decide

theorem wit_ChainSound : ChainSound mid where
  layoutWf := rfl
  perTransition := rfl
  guarded := rfl
  agentsOnly := by
    intro x hx
    simp only [mid, List.mem_cons, List.not_mem_nil, or_false] at hx
    rcases hx with rfl | rfl
    · exact ⟨_, rfl⟩
    · exact ⟨_, rfl⟩
  lock := wit_LockExclusive
  quiet := fun _ => ⟨0, rfl⟩
  ready := fun _ _ => ⟨_, _, _, _, _, _, _, wit_RecordGood⟩
  restart := by
    intro _ _ msgs count idx hm hc hi _
    obtain rfl : three = msgs := Option.some.inj hm
    obtain rfl : (3 : Int) = count := Option.some.inj hc
    obtain rfl : (0 : Int) = idx := Option.some.inj hi
    rfl
  noNext := rfl
  noUnset := rfl

/-- A write of one byte and one of none that merges into it, the first byte acknowledged. -/
def two : List Message := [wr 0x50 0 1 false, wr 0x50 8 0 true]

/-- Thread 0 waits while the interrupt for that byte is pending. -/
def merging : State :=
  { inCall two 0 1 0 false 0xF0#8 0x22#8 with
    locked := true
    wdtArmed := true
    wdtCtx := 1
    callers := [(0, { Caller.atReset with pc := .tWait, msgs := two, count := 2 })]
    agenda := [.move .irq] }

theorem merging_pc {t : Nat} {f : Phase → Bool} (hi : f .idle = false)
    (h : f (merging.caller t).pc = true) : t = 0 := by
  rw [show merging.caller t = if 0 = t then { Caller.atReset with pc := .tWait, msgs := two, count := 2 }
    else Caller.atReset from rfl] at h
  split at h
  · exact Eq.symm ‹_›
  · simp [Caller.atReset, hi] at h

theorem merging_RecordGood : RecordGood merging two 2 0 2 1 0 .ok where
  msgs_eq := rfl
  count_eq := rfl
  idx_eq := rfl
  nmsg_eq := rfl
  written_eq := rfl
  read_eq := rfl
  status_eq := rfl
  idx_low := by decide
  idx_high := by decide
  nmsg_low := by decide
  cursor := fun _ => rfl
  lengths := by
    intro i hi
    have : i < 2 := by omega
    interval_cases i <;> decide
  bytes := by decide

theorem merging_ChainSound : ChainSound merging where
  layoutWf := rfl
  perTransition := rfl
  guarded := rfl
  agentsOnly := by
    intro x hx
    obtain rfl := List.mem_singleton.1 hx
    exact ⟨_, rfl⟩
  lock :=
    ⟨fun _ _ ht hu => (merging_pc rfl ht).trans (merging_pc rfl hu).symm, fun _ => ⟨0, rfl⟩, fun _ => rfl⟩
  quiet := fun _ => ⟨0, rfl⟩
  ready := fun _ _ => ⟨_, _, _, _, _, _, _, merging_RecordGood⟩
  restart := by
    intro _ _ msgs count idx hm hc hi _
    obtain rfl : two = msgs := Option.some.inj hm
    obtain rfl : (2 : Int) = count := Option.some.inj hc
    obtain rfl : (0 : Int) = idx := Option.some.inj hi
    rfl
  noNext := rfl
  noUnset := rfl

/-- A merge into an empty message: the overrun of `OnlyEmptyMessagesOverrun` is reached from a state that
meets its invariant, and it is new. -/
theorem wit_OnlyEmptyMessagesOverrun : ChainSound merging ∧ merging.faults.bufferOverrun = false ∧
    ∃ t, step merging = .next t ∧ t.faults.bufferOverrun = true := ⟨merging_ChainSound, rfl, _, rfl, rfl⟩

theorem wit_ResetMeets : Params.default.layout.wf = true ∧ Params.default.unconstrained = false ∧
    Params.default.restartMode = .perTransition ∧ Params.default.lateGuard = true :=
  ⟨rfl, rfl, rfl, rfl⟩

theorem wit_DoneGen : mid.doneGen ≤ mid.gen := by decide

theorem wit_DecodeOfEncode : Layout.default.wf = true ∧ WellFormed .default (.addrR 0x7F#7) = true ∧
    encode .default (.addrR 0x7F#7) = some (.addrWrite 0xFF#8) ∧
    WellFormed .default (.isrRxByte 0xE022#16) = true ∧
    encode .default (.isrRxByte 0xE022#16) = some (.dispatch .rxByte 0xE022#16) := by decide

theorem wit_DecoderAccepts : decode .default (.c1Write false 0x80#8) = .ok .cmdIdle ∧
    decode .default (.sWrite 0x02#8) = .ok .clrIf ∧
    decode .default (.dispatch .rxByte 0xE022#16) = .ok (.isrRxByte 0xE022#16) := ⟨rfl, rfl, rfl⟩

theorem wit_StepRunsTheDecodedWord :
    ((State.reset.withFetchWord 8 0xC0).agenda = [.word 8 0xC0] ∧
      decodeWord State.reset.params.layout 8 0xC0 = some .cmdStop) ∧
    decodeTableWord 8 0x100 = none ∧ decodeTableWord 16 0x1_0000 = none ∧
    decodeTableWord 24 0 = none := ⟨⟨rfl, rfl⟩, rfl, rfl, rfl⟩

/-- A thread at a phase, a thread in no call, one at DONE, and no schedule. -/
theorem wit_StepRunsTheSelectedRow :
    (mid.agenda = [.move .irq, .move (.thread 0)] ∧ (mid.caller 0).pc = .tWait ∧
      phaseRow (.tWait 0) = some (0, .tWait)) ∧ (mid.caller 1).pc = .idle ∧
    ((at0 .done mid).caller 0).pc = .done ∧ State.reset.agenda = [] :=
  ⟨⟨rfl, rfl, rfl⟩, rfl, rfl, rfl⟩

/-- The move of the unconstrained environment, there and in the constrained one. -/
theorem wit_Stray :
    (({ mid with params := { Params.default with unconstrained := true } } : State).params.unconstrained =
      true) ∧ mid.params.unconstrained = false := ⟨rfl, rfl⟩

/-- V-ACQ-8's interference: the unconstrained environment clears MST and sets ARBL between two steps. -/
theorem test_stray :
    (match step { mid with
        params := { Params.default with unconstrained := true }
        agenda := [.move (.stray false true false true)] } with
      | .next t => some (t.c1, t.status)
      | _ => none) = some (0xD0#8, 0x30#8) := rfl

/-- A stopped handler, a stopped thread, a thread elsewhere, and each hold. -/
theorem wit_NoEnabledStep :
    handlerRow .irqDeliver = true ∧ { mid with handlerStopped := true }.handlerStopped = true ∧
    (mid.caller 0).pc ≠ .tArm ∧
    (({ mid with callers := [(0, { Caller.atReset with stopped := true })] } : State).caller 0).stopped =
      true ∧
    (AtPhase (at0 .tLock mid) 0 .tLock ∧ (at0 .tLock mid).locked = true) ∧
    (AtPhase mid 0 .tWait ∧ mid.doneGen ≠ mid.gen) ∧ (mid.caller 0).pc ≠ .idle ∧
    ({ mid with params := { Params.default with lateGuard := false } } : State).params.lateGuard =
      false ∧
    State.reset.wdtArmed = false ∧
    ¬IrqPending mid ∧
    (∀ b, State.reset.pending ≠ .txByte b) ∧ (∀ ack, mid.pending ≠ .rxByte ack) ∧
    mid.c1.getLsbD mid.params.layout.mst = true := by
  refine ⟨rfl, rfl, by decide, rfl, ⟨⟨rfl, rfl⟩, rfl⟩, ⟨⟨rfl, rfl⟩, by decide⟩, by decide, rfl, rfl,
    fun h => absurd h.2.2 (by decide), fun b => by simp [State.reset, State.atPowerOn],
    fun ack => by simp [mid], rfl⟩

/-- A row of each group: one that stores nothing, one that stores, one in transmit mode. -/
theorem wit_Frames :
    (storingRow (.isrTxNak 0xF023#16) = false ∧ ∃ t, exec (.isrTxNak 0xF023#16) mid = .next t) ∧
    (storingRow (.isrRxByte 0xE022#16) = true ∧ ∃ t, exec (.isrRxByte 0xE022#16) mid = .next t) ∧
    (mid.c1.getLsbD mid.params.layout.tx = true ∧ ∃ t, exec .isrEntry mid = .next t) ∧
    (∃ t, exec (.bufReadWrite .handler (wr 0x50 0 2 false) 1 (.write 0xFF#8)) mid = .next t) ∧
    (handlerRow .irqDeliver = true ∧ ∃ t, exec .irqDeliver mid = .next t) ∧
    (phaseRow (.tWait 0) = some (0, .tWait) ∧ ∃ t, exec (.tWait 0) mid = .next t) ∧
    (∃ t, exec (.envTxComplete .nak) mid = .next t) ∧ (∃ t, exec (.envOtherMaster true) mid = .next t) ∧
    ∃ t, exec (.envRxComplete .lost) mid = .next t :=
  ⟨⟨rfl, _, rfl⟩, ⟨rfl, _, rfl⟩, ⟨rfl, _, rfl⟩, ⟨_, rfl⟩, ⟨rfl, _, rfl⟩, ⟨rfl, _, rfl⟩, ⟨_, rfl⟩,
    ⟨_, rfl⟩, ⟨_, rfl⟩⟩

theorem wit_DataReadsStartReception : State.reset.handlerStopped = false ∧
    mid.c1.getLsbD mid.params.layout.tx = true ∧
    State.reset.c1.getLsbD State.reset.params.layout.mst = false := ⟨rfl, rfl, rfl⟩

/-- A message is current: the chain of one read of two bytes, `ts.read` at `k`. -/
theorem current_read (k : Int) :
    Current (inCall [rd 0x50 8 2 false] 0 0 k true 0xF0#8 0x22#8) (rd 0x50 8 2 false) :=
  ⟨_, _, _, rfl, rfl, rfl, by decide, by decide, rfl⟩

/-- Both clauses, at the last index inside and the first outside. -/
theorem wit_DataReadStoresTheByte (k : Int) :
    (inCall [rd 0x50 8 2 false] 0 0 k true 0xF0#8 0x22#8).handlerStopped = false ∧
    Current (inCall [rd 0x50 8 2 false] 0 0 k true 0xF0#8 0x22#8) (rd 0x50 8 2 false) ∧
    (inCall [rd 0x50 8 2 false] 0 0 k true 0xF0#8 0x22#8).ts.read = some k ∧
    ((0 : Int) ≤ 1 ∧ 1 < (rd 0x50 8 2 false).length) ∧ (rd 0x50 8 2 false).length ≤ 2 ∧
    (-1 : Int) < 0 := ⟨rfl, current_read k, rfl, by decide, by decide, by decide⟩

/-- A closed record (its last message done), with the interrupt pending. -/
theorem wit_LateInterruptOnlyStops :
    (inCall [wr 0x50 0 1 false] 1 1 0 true 0xC0#8 0x02#8).handlerStopped = false ∧
    (inCall [wr 0x50 0 1 false] 1 1 0 true 0xC0#8 0x02#8).params.lateGuard = true ∧
    RecordClosed (inCall [wr 0x50 0 1 false] 1 1 0 true 0xC0#8 0x02#8) ∧
    IrqPending (inCall [wr 0x50 0 1 false] 1 1 0 true 0xC0#8 0x02#8) :=
  ⟨rfl, rfl, .inl rfl, rfl, rfl, rfl⟩

theorem wit_RecordOpen (c1 st : Byte) : RecordOpen (inCall three 0 1 0 false c1 st) :=
  ⟨⟨_, rfl, by decide⟩, rfl⟩

/-- The guard lets an open record pass, and with LATE_GUARD = false a closed and an unset one. -/
theorem wit_GuardPasses : GuardPasses (inCall three 0 1 0 false 0xD0#8 0x32#8) ∧
    GuardPasses { inCall [wr 0x50 0 1 false] 1 1 0 true 0xC0#8 0x12#8 with
      params := { Params.default with lateGuard := false } } ∧
    GuardPasses { State.reset with params := { Params.default with lateGuard := false } } :=
  ⟨.inr (wit_RecordOpen _ _), .inl rfl, .inl rfl⟩

theorem wit_ArbitrationLoss : (0xF032#16 : Vec16).getLsbD Layout.default.arbl = true ∧
    Layout.default.wf = true ∧ (0x32#8 : Byte).getLsbD Layout.default.arbl = true ∧
    (0x12#8 : Byte).getLsbD Layout.default.arbl = true ∧
    IrqPending (inCall three 0 1 0 false 0xD0#8 0x32#8) := ⟨rfl, rfl, rfl, rfl, rfl, rfl, rfl⟩

theorem wit_PatternsTestTheirBits : Layout.default.wf = true := rfl

/-- Every row of the table is taken in some state. -/
theorem wit_RowTaken :
    RowTaken .txNak 0xF023#16 (wr 0x50 0 1 false) mid ∧
    RowTaken .txWrByte 0xF022#16 (wr 0x50 0 1 false)
      (inCall [wr 0x50 0 1 false] 0 0 0 true 0xF0#8 0x22#8) ∧
    RowTaken .txWrDone 0xF022#16 (wr 0x50 0 1 false) mid ∧
    RowTaken .txRdNoack 0xF422#16 (rd 0x50 0 1 false)
      (inCall [rd 0x50 0 1 false] 0 0 0 true 0xF4#8 0x22#8) ∧
    RowTaken .txRdAck 0xF422#16 (rd 0x50 0 2 false)
      (inCall [rd 0x50 0 2 false] 0 0 0 true 0xF4#8 0x22#8) ∧
    RowTaken .rxLastRestart 0xE822#16 (rd 0x50 0 2 false)
      (inCall [rd 0x50 0 2 false] 0 0 1 true 0xE8#8 0x22#8) ∧
    RowTaken .rxLastMerge1 0xE022#16 (rd 0x50 0 1 false)
      (inCall [rd 0x50 0 1 false, rd 0x50 4 1 true] 0 0 0 false 0xE0#8 0x22#8) ∧
    RowTaken .rxLastMerge 0xE022#16 (rd 0x50 0 3 false)
      (inCall [rd 0x50 0 3 false, rd 0x50 4 2 true] 0 0 2 false 0xE0#8 0x22#8) ∧
    RowTaken .rxPenultRestart 0xE022#16 (rd 0x50 0 2 false)
      (inCall [rd 0x50 0 2 false] 0 0 0 true 0xE0#8 0x22#8) ∧
    RowTaken .rxByte 0xE022#16 (rd 0x50 0 4 false)
      (inCall [rd 0x50 0 4 false] 0 0 1 true 0xE0#8 0x22#8) := by
  have a : ∀ v : Vec16, v = 0xF022#16 ∨ v = 0xF422#16 → TxAcked .default v := by
    rintro v (rfl | rfl) <;> exact ⟨rfl, rfl, rfl⟩
  have r : ∀ v : Vec16, v = 0xE022#16 ∨ v = 0xE822#16 → RxMode .default v := by
    rintro v (rfl | rfl) <;> exact ⟨rfl, rfl⟩
  exact ⟨⟨rfl, rfl, rfl⟩, ⟨a _ (.inl rfl), rfl, _, rfl, by decide⟩, ⟨a _ (.inl rfl), rfl, rfl⟩,
    ⟨a _ (.inr rfl), rfl, rfl, rfl⟩, ⟨a _ (.inr rfl), rfl, .inl (by decide)⟩, ⟨r _ (.inr rfl), rfl, rfl⟩,
    ⟨r _ (.inl rfl), rfl, rfl, _, _, rfl, rfl, rfl⟩, ⟨r _ (.inl rfl), rfl, rfl, _, _, rfl, rfl, by decide⟩,
    ⟨r _ (.inl rfl), rfl, rfl⟩, ⟨r _ (.inl rfl), _, rfl, by decide, .inl (by decide)⟩⟩

/-- A row with the other hypotheses of `HandlerRunsTheRowOfTheTable`, in both modes, and on a closed
record with no guard (V-ISR-2's late interrupt, LATE_GUARD = false). -/
theorem wit_HandlerRunsTheRow :
    (mid.handlerStopped = false ∧ mid.params.layout.wf = true ∧ GuardPasses mid ∧
      Current mid (wr 0x50 0 1 false) ∧
      RowTaken .txWrDone (dispatchVector mid.c1 mid.status) (wr 0x50 0 1 false) mid) ∧
    (GuardPasses (inCall [rd 0x50 0 2 false] 0 0 0 true 0xE0#8 0x22#8) ∧
      (0xE0#8 : Byte).getLsbD Layout.default.tx = false ∧
      RowTaken .rxPenultRestart (dispatchVector 0xE0#8 0x22#8) (rd 0x50 0 2 false)
        (inCall [rd 0x50 0 2 false] 0 0 0 true 0xE0#8 0x22#8)) ∧
    ∃ s : State, s.ts.nmsg = some 0 ∧ GuardPasses s ∧ IrqPending s ∧ Current s (wr 0x50 0 1 false) ∧
      RowTaken .txNak (dispatchVector s.c1 s.status) (wr 0x50 0 1 false) s :=
  ⟨⟨rfl, rfl, .inr ⟨⟨_, rfl, by decide⟩, rfl⟩, ⟨_, _, _, rfl, rfl, rfl, by decide, by decide, rfl⟩,
      ⟨rfl, rfl, rfl⟩, rfl, rfl⟩,
    ⟨.inr ⟨⟨_, rfl, by decide⟩, rfl⟩, rfl, ⟨rfl, rfl⟩, rfl, rfl⟩,
    { inCall [wr 0x50 0 1 false] 0 1 0 true 0xF0#8 0x03#8 with
      ts := { (inCall [wr 0x50 0 1 false] 0 1 0 true 0xF0#8 0x03#8).ts with nmsg := some 0 }
      params := { Params.default with lateGuard := false } },
    rfl, .inl rfl, ⟨rfl, rfl, rfl⟩, ⟨_, _, _, rfl, rfl, rfl, by decide, by decide, rfl⟩, rfl, rfl, rfl⟩

theorem wit_BranchesFollow : Layout.default.wf = true ∧
    (0x23#8 : Byte).getLsbD Layout.default.arbl = false := ⟨rfl, rfl⟩

theorem wit_NakEnds : TxNaked .default 0xF023#16 ∧ Current mid (wr 0x50 0 1 false) ∧
    mid.c1.getLsbD mid.params.layout.tx = true ∧
    (0x03#8 : Byte).getLsbD mid.params.layout.rxak = true :=
  ⟨⟨rfl, rfl, rfl⟩, ⟨_, _, _, rfl, rfl, rfl, by decide, by decide, rfl⟩, rfl, rfl⟩

/-- A write of two bytes with the cursor at `w`: inside at 0 and 1, outside at -1 and 3. -/
theorem wit_WriteByteIsPushed (w : Int) :
    TxAcked .default 0xF022#16 ∧
    Current (inCall [wr 0x50 0 2 false] 0 w 0 true 0xF0#8 0x20#8) (wr 0x50 0 2 false) ∧
    (wr 0x50 0 2 false).read = false ∧
    (inCall [wr 0x50 0 2 false] 0 w 0 true 0xF0#8 0x20#8).ts.written = some w ∧
    ((1 : Int) ≠ (wr 0x50 0 2 false).length ∧ (0 : Int) ≤ 1 ∧ 1 < (wr 0x50 0 2 false).length) ∧
    ((-1 : Int) ≠ (wr 0x50 0 2 false).length ∧ (-1 : Int) < 0) ∧
    (3 : Int) ≠ (wr 0x50 0 2 false).length ∧ (wr 0x50 0 2 false).length < 3 :=
  ⟨⟨rfl, rfl, rfl⟩, ⟨_, _, _, rfl, rfl, rfl, by decide, by decide, rfl⟩, rfl, rfl, by decide, by decide,
    by decide, by decide⟩

/-- A chain as the walker finds it, at its first message. -/
theorem wit_Chain (msgs : List Message) (w r : Int) (restart : Bool) (c1 : Byte)
    (h : 0 < msgs.length) :
    Chain (inCall msgs 0 w r restart c1 0x20#8) msgs msgs.length 0 (msgs.length - 0) restart where
  msgs_eq := rfl
  count_eq := rfl
  idx_eq := rfl
  nmsg_eq := rfl
  restart_eq := rfl
  low := by decide
  high := by omega
  more := by omega

/-- The last message of a chain: the walker ends it. -/
theorem wit_Chain_last : Chain (inCall three 2 4 0 true 0xF0#8 0x20#8) three 3 2 1 true where
  msgs_eq := rfl
  count_eq := rfl
  idx_eq := rfl
  nmsg_eq := rfl
  restart_eq := rfl
  low := by decide
  high := by decide
  more := by decide

/-- The clauses of `FinishedWriteWalksTheChain`: the end, a restart, a merge, an empty merge. -/
theorem wit_FinishedWrite :
    ((msgEntry three 2).read = false ∧
      (inCall three 2 4 0 true 0xF0#8 0x20#8).ts.written = some (msgEntry three 2).length) ∧
    Chain (inCall [wr 0x50 0 1 false, rd 0x50 4 2 false] 0 1 0 true 0xF0#8 0x20#8)
      [wr 0x50 0 1 false, rd 0x50 4 2 false] 2 0 (2 - 0) true ∧
    (Chain (inCall three 0 1 0 false 0xF0#8 0x20#8) three 3 0 (3 - 0) false ∧
      0 < (msgEntry three 1).length) ∧
    Chain (inCall [wr 0x50 0 1 false, wr 0x50 8 0 true] 0 1 0 false 0xF0#8 0x20#8)
      [wr 0x50 0 1 false, wr 0x50 8 0 true] 2 0 (2 - 0) false ∧
    (msgEntry [wr 0x50 0 1 false, wr 0x50 8 0 true] 1).length ≤ 0 :=
  ⟨⟨rfl, rfl⟩, wit_Chain _ _ _ _ _ (by decide), ⟨wit_Chain three _ _ _ _ (by decide), by decide⟩,
    wit_Chain [wr 0x50 0 1 false, wr 0x50 8 0 true] _ _ _ _ (by decide), by decide⟩

theorem wit_MergedWrite : Current mid (wr 0x50 0 1 false) ∧ 0 < (wr 0x50 0 1 false).length ∧
    Current (inCall [wr 0x50 0 0 false] 0 0 0 true 0xF0#8 0x20#8) (wr 0x50 0 0 false) ∧
    (wr 0x50 0 0 false).length ≤ 0 :=
  ⟨⟨_, _, _, rfl, rfl, rfl, by decide, by decide, rfl⟩, by decide,
    ⟨_, _, _, rfl, rfl, rfl, by decide, by decide, rfl⟩, by decide⟩

theorem wit_ReadSetUp : TxAcked .default 0xF422#16 ∧
    Current (inCall [rd 0x50 8 2 false] 0 0 0 true 0xF0#8 0x22#8) (rd 0x50 8 2 false) ∧
    (rd 0x50 8 2 false).read = true ∧ (rd 0x50 8 2 false).length ≠ 1 ∧
    Current (inCall [rd 0x50 8 1 false] 0 0 0 true 0xF0#8 0x22#8) (rd 0x50 8 1 false) ∧
    (rd 0x50 8 1 false).read = true ∧ (rd 0x50 8 1 false).length = 1 ∧
    (inCall [rd 0x50 8 1 false] 0 0 0 true 0xF0#8 0x22#8).ts.restart = some true ∧
    (inCall [rd 0x50 8 1 false] 0 0 0 false 0xF0#8 0x22#8).ts.restart = some false :=
  ⟨⟨rfl, rfl, rfl⟩, current_read 0, rfl, by decide, ⟨_, _, _, rfl, rfl, rfl, by decide, by decide, rfl⟩, rfl, rfl,
    rfl, rfl⟩

theorem wit_LastByteBeforeRestart : RxMode .default 0xE822#16 ∧
    Chain (inCall [rd 0x50 0 1 false] 0 0 0 true 0xE8#8 0x20#8) [rd 0x50 0 1 false] 1 0 (1 - 0) true ∧
    (inCall [rd 0x50 0 1 false] 0 0 0 true 0xE8#8 0x20#8).ts.read =
      some ((msgEntry [rd 0x50 0 1 false] 0).length - 1) ∧
    0 < (msgEntry [rd 0x50 0 1 false] 0).length :=
  ⟨⟨rfl, rfl⟩, wit_Chain [rd 0x50 0 1 false] _ _ _ _ (by decide), rfl, by decide⟩

/-- A next message of length 1, a longer one, and none (R163's stale flag); and the tail under a restart,
at an index inside the buffer (0 of one byte) and outside it (1 of one byte, and -1). -/
theorem wit_LastByteBeforeMerge :
    (Chain (inCall [rd 0x50 0 1 false, rd 0x50 4 1 true] 0 0 0 false 0xE0#8 0x20#8)
        [rd 0x50 0 1 false, rd 0x50 4 1 true] 2 0 (2 - 0) false ∧
      (msgEntry [rd 0x50 0 1 false, rd 0x50 4 1 true] 1).length = 1) ∧
    (Chain (inCall [rd 0x50 0 1 false, rd 0x50 4 0 true] 0 0 0 false 0xE0#8 0x20#8)
        [rd 0x50 0 1 false, rd 0x50 4 0 true] 2 0 (2 - 0) false ∧
      (msgEntry [rd 0x50 0 1 false, rd 0x50 4 0 true] 1).length ≠ 1) ∧
    Chain (inCall [rd 0x50 0 1 false] 0 0 0 false 0xE8#8 0x20#8) [rd 0x50 0 1 false] 1 0 (1 - 0) false ∧
    (1 : Int) ≤ 0 + 1 ∧
    (Chain (inCall [rd 0x50 0 1 false] 0 0 0 true 0xF0#8 0x20#8) [rd 0x50 0 1 false] 1 0 (1 - 0) true ∧
      (0 : Int) < (msgEntry [rd 0x50 0 1 false] 0).length ∧
      (msgEntry [rd 0x50 0 1 false] 0).length ≤ 1 ∧ (-1 : Int) < 0) :=
  ⟨⟨wit_Chain [rd 0x50 0 1 false, rd 0x50 4 1 true] _ _ _ _ (by decide), rfl⟩,
    ⟨wit_Chain [rd 0x50 0 1 false, rd 0x50 4 0 true] _ _ _ _ (by decide), by decide⟩,
    wit_Chain [rd 0x50 0 1 false] _ _ _ _ (by decide), by decide,
    wit_Chain [rd 0x50 0 1 false] _ _ _ _ (by decide), by decide, by decide, by decide⟩

/-- The penultimate byte, a merged penultimate byte, and no room. -/
theorem wit_OtherReceivedBytes (k : Int) :
    Current (inCall [rd 0x50 8 2 false] 0 0 k true 0xF0#8 0x22#8) (rd 0x50 8 2 false) ∧
    (0 : Int) = (rd 0x50 8 2 false).length - 2 ∧ (0 : Int) < (rd 0x50 8 2 false).length - 1 ∧
    (inCall [rd 0x50 8 2 false] 0 0 0 false 0xE0#8 0x22#8).ts.restart = some false ∧
    (rd 0x50 8 2 false).length ≤ 2 := ⟨current_read k, rfl, by decide, rfl, by decide⟩

theorem wit_Walker : Chain (inCall three 2 4 0 true 0xF0#8 0x20#8) three 3 2 1 true ∧
    Chain (inCall three 0 1 0 true 0xF0#8 0x20#8) three 3 0 (3 - 0) true ∧
    Chain (inCall three 0 1 0 false 0xF0#8 0x20#8) three 3 0 (3 - 0) false :=
  ⟨wit_Chain_last, wit_Chain three _ _ _ _ (by decide), wit_Chain three _ _ _ _ (by decide)⟩

/-- A cursor at the last message of the chain, and both restart modes. -/
theorem wit_WalkerAdvances : (inCall three 2 4 0 true 0xF0#8 0x20#8).ts.msgs = some three ∧
    (inCall three 2 4 0 true 0xF0#8 0x20#8).ts.count = some 3 ∧
    (inCall three 2 4 0 true 0xF0#8 0x20#8).ts.idx = some 2 ∧ (0 : Int) ≤ 2 ∧
    (inCall three 2 4 0 true 0xF0#8 0x20#8).params.restartMode = .perTransition ∧
    ({ Params.default with restartMode := .perStep } : Params).restartMode = .perStep :=
  ⟨rfl, rfl, rfl, by decide, rfl, rfl⟩

/-- Indices of each clause of the merge test: inside, last, before the chain. -/
theorem wit_MergeTest : stoppedBy .handler mid = false ∧ mid.ts.msgs = some three ∧
    mid.ts.count = some 3 ∧ (0 : Int) ≤ 0 ∧ (3 : Int) ≤ 2 + 1 ∧ ((-1 : Int) < 0 ∧ (-1 : Int) + 1 < 3) :=
  ⟨rfl, rfl, rfl, by decide, by decide, by decide⟩

/-- A thread at each label, not stopped; `at0` gives the label. -/
theorem wit_AtPhase (p : Phase) (s : State) : AtPhase (at0 p s) 0 p := ⟨rfl, rfl⟩

theorem wit_CallEnters : (AtPhase State.reset 0 .idle ∧ 0 < State.reset.params.nCallers) ∧
    Context.interrupt ≠ .thread ∧ Context.timer ≠ .thread :=
  ⟨⟨⟨rfl, rfl⟩, Nat.succ_pos _⟩, by decide, by decide⟩

/-- The last caller thread of six, and the first number beyond. -/
theorem wit_CallerNumbers (s : State)
    (h : s = { State.reset with params := { Params.default with nCallers := 6 } }) :
    (AtPhase s 5 .idle ∧ 5 < s.params.nCallers) ∧ s.params.nCallers ≤ 6 ∧ (s.caller 6).pc = .idle := by
  subst h; exact ⟨⟨⟨rfl, rfl⟩, by decide⟩, by decide, rfl⟩

theorem wit_OperationsRunTheirPhases : phaseRow (.aTest 0) = some (0, .aTest) ∧
    ((at0 .aTest mid).caller 0).pc = .aTest ∧ phaseRow (.tWait 0) = some (0, .tWait) ∧
    (mid.caller 0).pc = .tWait := ⟨rfl, rfl, rfl, rfl⟩

theorem wit_LockIsTestAndSet : AtPhase (at0 .tLock State.reset) 0 .tLock ∧
    (at0 .tLock State.reset).locked = false ∧ (at0 .tLock mid).locked = true := ⟨⟨rfl, rfl⟩, rfl, rfl⟩

/-- A refused chain, an empty one, and one that runs. -/
theorem wit_InitResetsTheRecord :
    (((0 : Nat) : Int) < 1 ∧ (msgEntry [rd 0x50 0 (-1) false] 0).length < 0) ∧
    ((at0 .tInit State.reset).caller 0).count < 1 ∧
    ((1 : Int) ≤ 1 ∧ ∀ k : Nat, (k : Int) < 1 → 0 ≤ (msgEntry [wr 0x50 0 0 false] k).length ∧
      (msgEntry [wr 0x50 0 0 false] k).otherFlag = false ∧
      (msgEntry [wr 0x50 0 0 false] k).extended = false) := by
  refine ⟨by decide, by decide, by decide, fun k hk => ?_⟩
  obtain rfl : k = 0 := by omega
  decide

theorem wit_Frequency : (inCall three 0 0 0 true 0x80#8 0x00#8).ts.freqCache = some 100000 ∧
    State.reset.ts.freqCache ≠ some 100000 ∧ (msgEntry three 0).frequency = 100000 :=
  ⟨rfl, by decide, rfl⟩

theorem wit_ClearThenLoop : (inCall three 0 0 0 true 0x80#8 0x00#8).ts.nmsg = some (3 - 0) ∧
    (inCall three 0 0 0 true 0x80#8 0x00#8).ts.status = some .ok := ⟨rfl, rfl⟩

theorem wit_StepOpens : mid.ts.msgs = some three ∧ mid.ts.count = some 3 ∧ mid.ts.idx = some 0 ∧
    (0 : Int) ≤ 0 ∧ (0 : Int) < 3 := ⟨rfl, rfl, rfl, by decide, by decide⟩

theorem wit_Wait : AtPhase mid 0 .tWait ∧ mid.doneGen ≠ mid.gen ∧
    ({ mid with doneGen := 1 } : State).doneGen = mid.gen := ⟨⟨rfl, rfl⟩, by decide, rfl⟩

theorem wit_Exit : (at0 .tResult mid).ts.status = some .ok := rfl

theorem wit_Acquisition : Current (at0 .aAddr mid) (wr 0x50 0 1 false) :=
  ⟨_, _, _, rfl, rfl, rfl, by decide, by decide, rfl⟩

/-- An open step, a completed one, a stale context. -/
theorem wit_Timeout : ((1 : Nat) = mid.gen ∧ mid.doneGen ≠ mid.gen) ∧
    ({ mid with doneGen := 1 } : State).doneGen = mid.gen ∧ (0 : Nat) ≠ mid.gen ∧
    mid.wdtArmed = true ∧ mid.wdtCtx = mid.gen := ⟨⟨rfl, by decide⟩, rfl, by decide, rfl, rfl⟩

theorem wit_Environment : mid.pending = .txByte 0x11#8 ∧
    ({ mid with pending := .rxByte true } : State).pending = .rxByte true ∧
    State.reset.c1.getLsbD State.reset.params.layout.mst = false := ⟨rfl, rfl, rfl⟩

/-- Indices inside and outside a buffer and a chain, before it, an unset count, unset messages. -/
theorem wit_Primitives : stoppedBy .handler mid = false ∧
    ((0 : Int) ≤ 1 ∧ 1 < (wr 0x50 0 2 false).length) ∧ (wr 0x50 0 2 false).length ≤ 2 ∧
    ((0 : Int) ≤ 2 ∧ (2 : Int) < 3) ∧ (3 : Int) ≤ 3 ∧ (-1 : Int) < 0 ∧
    State.reset.ts.count = none ∧
    ({ TransferState.unset with count := some 3 } : TransferState).msgs = none :=
  ⟨rfl, by decide, by decide, by decide, by decide, by decide, rfl, rfl⟩

end Sys2Proof.Tests
end

/-! PROOFS. The step, reset, the register fields and the moves that are not enabled (00_scope.md):
settles O59, O5, O6, O7 and O21. First what one entry of the schedule does, the action that a row
runs and the steps that change nothing, each said once. -/

namespace Sys2Proof.Machine

open Sys2Proof.Claims

/-! ### One entry of the schedule -/

theorem step_of_agenda {s : State} {x : Slot} {rest : List Slot} (h : s.agenda = x :: rest) :
    step s = runSlot x { s with agenda := rest } := by
  simp only [step, nextSlot, afterSlot, h]

theorem step_of_empty_agenda {s : State} (h : s.agenda = []) :
    step s = runSlot (.move (Config.freeMove s.tick)) { s with tick := s.tick + 1 } := by
  simp only [step, nextSlot, afterSlot, h]

/-- A fetched word is the next entry, and taking it leaves the state it was put on. -/
theorem step_withFetchWord (s : State) (nbits w : Nat) :
    step (s.withFetchWord nbits w) = runSlot (.word nbits w) s := rfl

theorem runSlot_word_of_decoded {s : State} {nbits w : Nat} {i : Instr}
    (h : decodeWord s.params.layout nbits w = some i) : runSlot (.word nbits w) s = exec i s := by
  simp only [runSlot, h]

theorem runSlot_word_of_undecodable {s : State} {nbits w : Nat}
    (h : decodeWord s.params.layout nbits w = none) :
    runSlot (.word nbits w) s = .fault .noSuchCommand := by
  simp only [runSlot, h]

theorem runSlot_move_of_selected {s : State} {m : Move} {i : Instr} (h : selectMove m s = some i) :
    runSlot (.move m) s = exec i s := by
  simp only [runSlot, h]

theorem runSlot_move_of_unselected {s : State} {m : Move} (h : selectMove m s = none) :
    runSlot (.move m) s = .next (moveWithoutRow m s) := by
  simp only [runSlot, h]

/-- The table of phase rows and the scheduler's choice by phase agree (R33). -/
theorem phaseInstr_of_phaseRow {i : Instr} {u : Nat} {p : Phase} (h : phaseRow i = some (u, p)) :
    phaseInstr u p = some i := by
  cases i <;> cases h <;> rfl

/-! ### The action of a row -/

/-- A row of the interrupt handler is one step of the handler; IRQ_DELIVER without a pending interrupt
is the step of an action that does nothing. -/
theorem exec_of_handlerRow {i : Instr} (hi : handlerRow i = true) (s : State) :
    ∃ a, exec i s = .next (runAct .handler a s) := by
  cases i
  case irqDeliver =>
    by_cases hp : irqPending s.params.layout s.c1 s.status = true
    · exact ⟨isr, if_pos hp⟩
    · exact ⟨pure (), by simp [exec, execIrqDeliver, hp, runAct, act_pure]⟩
  all_goals (cases hi <;> exact ⟨_, rfl⟩)

/-- A phase row is one step of its thread at its label (R33). -/
theorem exec_of_phaseRow {i : Instr} {u : Nat} {p : Phase} (hi : phaseRow i = some (u, p)) :
    ∃ a, ∀ s, exec i s = .next (coordStep u p a s) := by
  cases i <;> cases hi <;> exact ⟨_, fun _ => rfl⟩

/-! ### Steps that change nothing -/

/-- An action that answers without a change leaves the state, whether its agent has stopped or not. -/
theorem runAct_of_idle {r : Runner} {a : Act Unit} {s : State} (h : a s = .ok () s) :
    runAct r a s = s := by simp [runAct, h]

theorem coordStep_of_idle {u : Nat} {p : Phase} {a : Act Unit} {s : State} (h : a s = .ok () s) :
    coordStep u p a s = s := by simp [coordStep, runAct_of_idle h]

theorem coordStep_of_ne {u : Nat} {p : Phase} {a : Act Unit} {s : State} (h : (s.caller u).pc ≠ p) :
    coordStep u p a s = s := if_neg h

theorem coordStep_of_stopped {u : Nat} {p : Phase} {a : Act Unit} {s : State}
    (h : (s.caller u).stopped = true) : coordStep u p a s = s := by
  simp [coordStep, runAct_stopped (r := .caller u) h]

/-- A taken lock holds the thread at T_LOCK (R172). -/
theorem tLockAct_of_locked {u : Nat} {s : State} (h : s.locked = true) :
    tLockAct u s = .ok () s := by simp [tLockAct, act_bind, act_pure, h]

/-- An incomplete step holds the thread at T_WAIT (R182). -/
theorem tWaitAct_of_incomplete {u : Nat} {s : State} (h : s.doneGen ≠ s.gen) :
    tWaitAct u s = .ok () s := by simp [tWaitAct, act_bind, act_pure, h]

/-- A call from thread context needs a thread that is IDLE, that no fault has stopped and that is
numbered below N_CALLERS (R171, R6). -/
theorem callStep_thread_of_not_enabled {u : Nat} {msgs : List Message} {count : Int} {s : State}
    (h : ¬((s.caller u).pc = .idle ∧ (s.caller u).stopped = false ∧ u < s.params.nCallers)) :
    callStep u .thread msgs count s = s := if_neg h

theorem exec_transfer_of_idle {u : Nat} {msgs : List Message} {count : Int} {s : State}
    (h : (s.caller u).pc = .idle) :
    exec (.transfer u msgs count) s = exec (.call u .thread msgs count) s := if_pos h

/-- Without LATE_GUARD the guard row does nothing (R131). -/
theorem exec_isrGuard_of_no_guard {v : Vec16} {s : State} (h : s.params.lateGuard = false) :
    exec (.isrGuard v) s = .next s := by
  refine congrArg Host.Outcome.next (runAct_of_idle ?_)
  split
  · simp [act_bind, act_pure, guardHolds_of_passes (.inl h)]
  · rfl

theorem expireWatchdog_of_disarmed {s : State} (h : s.wdtArmed = false) : expireWatchdog s = s := by
  simp [expireWatchdog, h]

/-- The interrupt condition as bits (R227). -/
theorem irqPending_iff (s : State) :
    irqPending s.params.layout s.c1 s.status = true ↔ IrqPending s := by
  simp [irqPending, IrqPending, c1En, c1Ie, sIicif, bitAt, and_assoc]

theorem exec_irqDeliver_of_not_pending {s : State} (h : ¬IrqPending s) :
    exec .irqDeliver s = .next s := if_neg (mt (irqPending_iff s).1 h)

theorem txComplete_of_no_txByte {o : TxOutcome} {s : State} (h : ∀ b, s.pending ≠ .txByte b) :
    txComplete o s = s := by
  cases hp : s.pending with
  | txByte b => exact absurd hp (h b)
  | rxByte _ => simp only [txComplete, hp]
  | none => simp only [txComplete, hp]

theorem rxComplete_of_no_rxByte {o : RxOutcome} {s : State} (h : ∀ ack, s.pending ≠ .rxByte ack) :
    rxComplete o s = s := by
  cases hp : s.pending with
  | rxByte ack => exact absurd hp (h ack)
  | txByte _ => simp only [rxComplete, hp]
  | none => simp only [rxComplete, hp]

theorem otherMaster_of_master {b : Bool} {s : State}
    (h : s.c1.getLsbD s.params.layout.mst = true) : otherMaster b s = s := if_pos h

/-! ### The unconstrained environment -/

/-- The environment's move exists only in the unconstrained environment (R234). -/
theorem strayFlags_of_constrained {iicif arbl rxak clearMst : Bool} {s : State}
    (h : s.params.unconstrained = false) : strayFlags iicif arbl rxak clearMst s = s := by
  simp [strayFlags, h]

theorem strayFlags_frame (iicif arbl rxak clearMst : Bool) (s : State) :
    strayFlags iicif arbl rxak clearMst s =
      { s with
        status := (strayFlags iicif arbl rxak clearMst s).status
        c1 := (strayFlags iicif arbl rxak clearMst s).c1 } := by
  unfold strayFlags
  split <;> rfl

/-- Setting a bit on a condition. -/
theorem getLsbD_ite_setBitAt (c : Bool) (v : Byte) (n i : Nat) (hi : i < 8) :
    (if c then setBitAt v n else v).getLsbD i = true ↔
      v.getLsbD i = true ∨ (c = true ∧ i = n) := by
  cases c
  · simp
  · rw [if_pos rfl, getLsbD_setBitAt]
    simp [hi]

/-- Clearing a bit on a condition. -/
theorem getLsbD_ite_clearBitAt (c : Bool) (v : Byte) (n i : Nat) :
    (if c then clearBitAt v n else v).getLsbD i = true ↔
      v.getLsbD i = true ∧ ¬(c = true ∧ i = n) := by
  cases c <;> simp [getLsbD_clearBitAt]

/-- The flags of S that the environment's move leaves (R234). -/
theorem strayFlags_status {iicif arbl rxak clearMst : Bool} {s : State}
    (h : s.params.unconstrained = true) {i : Nat} (hi : i < 8) :
    (strayFlags iicif arbl rxak clearMst s).status.getLsbD i = true ↔ s.status.getLsbD i = true ∨
      (iicif = true ∧ i = s.params.layout.iicif) ∨ (arbl = true ∧ i = s.params.layout.arbl) ∨
      (rxak = true ∧ i = s.params.layout.rxak) := by
  simp only [strayFlags, h, if_true, getLsbD_ite_setBitAt _ _ _ _ hi, or_assoc]

/-- C1 after the environment's move (R111, R234). -/
theorem strayFlags_c1 {iicif arbl rxak clearMst : Bool} {s : State}
    (h : s.params.unconstrained = true) (i : Nat) :
    (strayFlags iicif arbl rxak clearMst s).c1.getLsbD i = true ↔
      s.c1.getLsbD i = true ∧ ¬(clearMst = true ∧ i = s.params.layout.mst) := by
  simp only [strayFlags, h, if_true, getLsbD_ite_clearBitAt]

/-! ### Power-on -/

theorem bootPremise_atPowerOn (p : Params) : BootPremise (.atPowerOn p) := by
  simp [BootPremise, State.atPowerOn, TransferState.unset, sArbl, sIicif, bitAt]

theorem runEnded_atPowerOn (p : Params) : RunEnded (.atPowerOn p) :=
  ⟨fun _ => rfl, rfl, rfl, rfl, rfl, rfl⟩

/-- No flag of S is set at power-on, so no interrupt is pending. -/
theorem not_irqPending_atPowerOn (p : Params) : ¬IrqPending (.atPowerOn p) := by
  rintro ⟨-, -, hflag⟩
  simp [State.atPowerOn] at hflag

end Sys2Proof.Machine

namespace Sys2Proof.Proofs

open Sys2Proof.Machine Sys2Proof.Claims

/-- Settles O59: the bit lemmas of the field helpers, and the command bytes of the default layout. -/
theorem fieldsAreTheirBits : Obligations.FieldsAreTheirBits := by
  refine ⟨fun ps i => ?_, fun v n i => ⟨?_, ?_⟩, ?_, ?_⟩
  · simp [getLsbD_fieldsByte]
  · simp [getLsbD_setBitAt]
  · simp [getLsbD_clearBitAt]
  · change [cmdStartByte .default, cmdRestartByte .default, cmdRxAckByte .default,
      cmdRxNoackByte .default, cmdStopByte .default, cmdIdleByte .default] = _
    rw [cmdStartByte_default, cmdRestartByte_default, cmdRxAckByte_default, cmdRxNoackByte_default,
      cmdStopByte_default, cmdIdleByte_default]
  · change [clrAllByte .default, clrIfByte .default] = _
    rw [clrAllByte_default, clrIfByte_default]

/-- Settles O5: the entry is taken off the schedule, then its word is decoded. -/
theorem stepRunsTheDecodedWord : Obligations.StepRunsTheDecodedWord := by
  refine ⟨fun s nbits w rest hs => ⟨fun i hi => ?_, fun hnone => ?_, fun s' => ?_⟩,
    fun nbits w i hi => ?_⟩
  · exact (step_of_agenda hs).trans (runSlot_word_of_decoded (s := { s with agenda := rest }) hi)
  · exact (step_of_agenda hs).trans
      (runSlot_word_of_undecodable (s := { s with agenda := rest }) hnone)
  · exact step_withFetchWord s' nbits w
  · exact (step_withFetchWord ..).trans (runSlot_word_of_decoded (s := State.reset) hi)

/-- Settles O6, by the row that the move selects; the two moves that select none are the thread's at
IDLE or DONE and the unconstrained environment's. -/
theorem stepRunsTheSelectedRow : Obligations.StepRunsTheSelectedRow := by
  refine fun s => ⟨fun m rest hs => ?_, step_of_empty_agenda⟩
  rw [step_of_agenda hs]
  refine ⟨?thread, ?noRow, ?call, ?resetCall, ?irq, ?expire, ?txComplete, ?rxComplete,
    ?otherMaster, ?stray⟩
  case thread =>
    rintro u i p rfl hpc hrow
    refine runSlot_move_of_selected ?_
    change phaseInstr u (s.caller u).pc = some i
    rw [hpc, phaseInstr_of_phaseRow hrow]
  case noRow =>
    rintro u rfl hpc
    refine runSlot_move_of_unselected ?_
    change phaseInstr u (s.caller u).pc = none
    rcases hpc with hpc | hpc <;> rw [hpc] <;> rfl
  case call => rintro u ctx msgs count rfl; rfl
  case resetCall => rintro rfl; rfl
  case irq => rintro rfl; rfl
  case expire => rintro rfl; rfl
  case txComplete => rintro o rfl; rfl
  case rxComplete => rintro o rfl; rfl
  case otherMaster => rintro b rfl; rfl
  case stray =>
    rintro iicif arbl rxak clearMst rfl
    rw [runSlot_move_of_unselected rfl]
    refine ⟨fun hc => ?_, fun hu => ?_⟩
    · exact congrArg _ (strayFlags_of_constrained hc)
    · have hu' : ({ s with agenda := rest } : State).params.unconstrained = true := hu
      exact ⟨_, rfl, strayFlags_frame .., fun i hi =>
        ⟨strayFlags_status hu' hi, strayFlags_c1 hu' i⟩⟩

/-- Settles O7: the fields of power-on are read off. -/
theorem resetIsTheBootState : Obligations.ResetIsTheBootState := by
  refine ⟨?_, rfl, by decide, rfl, rfl, rfl, Nat.succ_pos _⟩
  rintro p s rfl
  exact ⟨bootPremise_atPowerOn p, rfl, fun _ => rfl, rfl, rfl, rfl, rfl, rfl,
    not_irqPending_atPowerOn p, runEnded_atPowerOn p, rfl⟩

/-- Settles O21: a stopped agent or a thread at another label takes no step, and for each remaining case
the operation's own condition fails. -/
theorem noEnabledStepLeavesTheState : Obligations.NoEnabledStepLeavesTheState := by
  refine ⟨?stoppedHandler, ?phaseNotEnabled, ?lockTaken, ?stepIncomplete, ?inCall, ?numberTooHigh,
    ?noGuard, ?disarmed, ?notPending, ?noTransmission, ?noReception, ?blockIsMaster⟩
  case stoppedHandler =>
    intro i s hi hstop
    obtain ⟨a, ha⟩ := exec_of_handlerRow hi s
    rw [ha, runAct_stopped (r := .handler) hstop]
  case phaseNotEnabled =>
    intro i u p s hi hdis
    obtain ⟨a, ha⟩ := exec_of_phaseRow hi
    rw [ha s]
    rcases hdis with hpc | hstop
    · rw [coordStep_of_ne hpc]
    · rw [coordStep_of_stopped hstop]
  case lockTaken => exact fun s u _ h => congrArg _ (coordStep_of_idle (tLockAct_of_locked h))
  case stepIncomplete => exact fun s u _ h => congrArg _ (coordStep_of_idle (tWaitAct_of_incomplete h))
  case inCall =>
    intro s u msgs count h
    refine congrArg _ (callStep_thread_of_not_enabled ?_)
    rintro ⟨hpc, hrun, -⟩
    rcases h with h | h
    · exact h hpc
    · rw [hrun] at h; cases h
  case numberTooHigh =>
    intro s u msgs count i hu hpc hi
    have hcall : exec (.call u .thread msgs count) s = .next s :=
      congrArg _ (callStep_thread_of_not_enabled fun ⟨_, _, hlt⟩ => absurd hlt (by omega))
    rcases hi with rfl | rfl
    · exact hcall
    · rw [exec_transfer_of_idle hpc, hcall]
  case noGuard => exact fun s v h => exec_isrGuard_of_no_guard h
  case disarmed => exact fun s h => congrArg _ (expireWatchdog_of_disarmed h)
  case notPending => exact fun s h => exec_irqDeliver_of_not_pending h
  case noTransmission => exact fun s o h => congrArg _ (txComplete_of_no_txByte h)
  case noReception => exact fun s o h => congrArg _ (rxComplete_of_no_rxByte h)
  case blockIsMaster => exact fun s b h => congrArg _ (otherMaster_of_master h)

end Sys2Proof.Proofs

/-! PROOFS. The invariants and frames of the state (10_state.md): settles O8, O11, O13, O15, O16
and O19. First all that a step can do, said once: the writes of an agent that is no caller thread
(`AgentWrites`), the phases of a caller thread (`PhaseStep`), and the entry of the schedule that selects
one of them (`SlotStep`). Then what these keep: the lock, the generations, the marks, and the record of
the chain, on which the handler is followed by triples (`EndsSound`). -/

namespace Sys2Proof.Machine

open Sys2Proof.Claims

/-! ### What an agent other than a caller thread writes -/

/-- What the handler, the watchdog, the environment and a register command may change before a fault is
taken: neither a caller thread nor the lock, and the traces at their end alone (R42, R237). -/
structure AgentWrites (s t : State) : Prop where
  callers : t.callers = s.callers
  locked : t.locked = s.locked
  gen : t.gen = s.gen
  doneGen : t.doneGen = s.doneGen ∨ t.doneGen = s.gen
  handlerStopped : t.handlerStopped = s.handlerStopped
  bus : ∃ x, t.bus = s.bus ++ x
  cmds : ∃ x, t.cmds = s.cmds ++ x
  returns : t.returns = s.returns
  faults : t.faults = s.faults
  refused : t.refused = s.refused
  params : t.params = s.params
  agenda : t.agenda = s.agenda

namespace AgentWrites

theorem refl (s : State) : AgentWrites s s where
  callers := rfl
  locked := rfl
  gen := rfl
  doneGen := .inl rfl
  handlerStopped := rfl
  bus := ⟨[], by simp⟩
  cmds := ⟨[], by simp⟩
  returns := rfl
  faults := rfl
  refused := rfl
  params := rfl
  agenda := rfl

/-- A write that leaves everything but registers, Transfer State, watchdog, memory and traces. -/
theorem write {s t u : State} (h : AgentWrites s t)
    (hrest : u = { t with
      ts := u.ts, doneGen := u.doneGen, wdtArmed := u.wdtArmed, wdtCtx := u.wdtCtx, c1 := u.c1
      status := u.status, dTx := u.dTx, rxLatch := u.rxLatch, f := u.f, flt := u.flt
      pending := u.pending, bus := u.bus, cmds := u.cmds, mem := u.mem, out := u.out })
    (hdone : u.doneGen = t.doneGen ∨ u.doneGen = t.gen) (hbus : ∃ x, u.bus = t.bus ++ x)
    (hcmds : ∃ x, u.cmds = t.cmds ++ x) : AgentWrites s u := by
  obtain ⟨x, hx⟩ := hbus
  obtain ⟨y, hy⟩ := hcmds
  obtain ⟨x', hx'⟩ := h.bus
  obtain ⟨y', hy'⟩ := h.cmds
  have hdone' : u.doneGen = s.doneGen ∨ u.doneGen = s.gen := by
    rcases hdone with e | e
    · rw [e]; exact h.doneGen
    · exact .inr (e.trans h.gen)
  have hb : ∃ z, u.bus = s.bus ++ z := ⟨x' ++ x, by rw [hx, hx', List.append_assoc]⟩
  have hc : ∃ z, u.cmds = s.cmds ++ z := ⟨y' ++ y, by rw [hy, hy', List.append_assoc]⟩
  rw [hrest]
  exact ⟨h.callers, h.locked, h.gen, hdone', h.handlerStopped, hb, hc, h.returns, h.faults, h.refused,
    h.params, h.agenda⟩

variable {s t : State}

/-- A write of registers, Transfer State, watchdog, memory or `out` that records nothing. -/
theorem silent {u : State} (h : AgentWrites s t)
    (hrest : u = { t with
      ts := u.ts, wdtArmed := u.wdtArmed, wdtCtx := u.wdtCtx, c1 := u.c1
      status := u.status, dTx := u.dTx, rxLatch := u.rxLatch, f := u.f, flt := u.flt
      pending := u.pending, mem := u.mem, out := u.out }) : AgentWrites s u := by
  have hbus : u.bus = t.bus := by rw [hrest]
  have hcmds : u.cmds = t.cmds := by rw [hrest]
  have hdone : u.doneGen = t.doneGen := by rw [hrest]
  refine h.write ?_ (.inl hdone) ⟨[], by simp [hbus]⟩ ⟨[], by simp [hcmds]⟩
  rw [hbus, hcmds, hdone]
  exact hrest

theorem writeC1 (h : AgentWrites s t) (v : Byte) : AgentWrites s (writeC1 v t) :=
  h.write rfl (.inl rfl) ⟨_, rfl⟩ ⟨_, rfl⟩

theorem writeS (h : AgentWrites s t) (v : Byte) : AgentWrites s (writeS v t) :=
  h.write rfl (.inl rfl) ⟨[], by simp⟩ ⟨_, rfl⟩

theorem writeD (h : AgentWrites s t) (v : Byte) : AgentWrites s (writeD v t) :=
  h.write rfl (.inl rfl) ⟨[], by simp⟩ ⟨_, rfl⟩

theorem signalDone (h : AgentWrites s t) : AgentWrites s (signalDone t) :=
  h.write rfl (.inr rfl) ⟨[], by simp⟩ ⟨[], by simp⟩

theorem out (h : AgentWrites s t) (o : OpResult) : AgentWrites s { t with out := o } := h.silent rfl

end AgentWrites

/-- The handler writes no more than that (R42, R237). -/
theorem handlerStable_agentWrites (s : State) : HandlerStable (AgentWrites s) where
  ts _ _ h := h.silent rfl
  signal _ h := h.signalDone
  writeC1 v _ h := h.writeC1 v
  writeS v _ h := h.writeS v
  writeD v _ h := h.writeD v
  readC1 _ h := h.write rfl (.inl rfl) ⟨[], by simp⟩ ⟨_, rfl⟩
  readS _ h := h.write rfl (.inl rfl) ⟨[], by simp⟩ ⟨_, rfl⟩
  readD _ h := h.write rfl (.inl rfl) ⟨[], by simp⟩ ⟨_, rfl⟩
  store _ _ _ h := h.silent rfl

/-! ### The rows of the handler, the registers, the environment and the watchdog -/

/-- A handler row is one step of the handler, and its action keeps every handler-stable property that
does not read `out`. -/
theorem HandlerStable.exec_handlerRow {P : State → Prop} (h : HandlerStable P)
    (hout : ∀ o s, P s → P { s with out := o }) {i : Instr} (hi : handlerRow i = true) (s : State) :
    ∃ a, Keeps P a ∧ exec i s = .next (runAct .handler a s) := by
  have hgive (o : OpResult) : Keeps P (give o) := Holds.change fun s hs => hout o s hs
  cases i
  case dataR =>
    exact ⟨_, Holds.bind keeps_curMsg fun m => Holds.bind (h.keeps_dataRead m) fun _ => hgive _, rfl⟩
  case dummyR => exact ⟨_, Holds.bind h.keeps_readD fun _ => hgive _, rfl⟩
  case isrGuard v =>
    exact ⟨_, Holds.ite (fun _ => Holds.bind keeps_guardHolds fun _ =>
      Holds.ite (fun _ => h.keeps_guardBody) fun _ => keeps_pure _) fun _ => keeps_pure _, rfl⟩
  case isrArbl v => exact ⟨_, Holds.ite (fun _ => h.keeps_arblBody) fun _ => keeps_pure _, rfl⟩
  case isrTxNak v => exact ⟨_, Holds.ite (fun _ => h.keeps_txNakBody) fun _ => keeps_pure _, rfl⟩
  case isrTxWrMerge v =>
    exact ⟨_, Holds.ite (fun _ => h.keeps_txWrMergeBody) fun _ => keeps_pure _, rfl⟩
  case isrTxWrByte | isrTxWrDone | isrTxRdNoack | isrTxRdAck | isrRxLastRestart | isrRxLastMerge1
    | isrRxLastMerge | isrRxPenultRestart | isrRxByte => exact ⟨_, h.keeps_branchAct _ _ _, rfl⟩
  case isrEntry => exact ⟨_, h.keeps_isr, rfl⟩
  case isrClearMode st => exact ⟨_, h.keeps_clearMode st, rfl⟩
  case isrRxDispatch => exact ⟨_, Holds.bind keeps_curMsg fun m => h.keeps_rxBranch m, rfl⟩
  case isrRxLastTail => exact ⟨_, Holds.bind keeps_curMsg fun m => h.keeps_rxLastTailBody m, rfl⟩
  case nextmsg => exact ⟨_, Holds.bind h.keeps_nextmsg fun _ => hgive _, rfl⟩
  case advanceSignal => exact ⟨_, Holds.bind h.keeps_advanceSignal fun _ => hgive _, rfl⟩
  case advanceMerged => exact ⟨_, Holds.bind h.keeps_advanceMerged fun _ => hgive _, rfl⟩
  case restartRecompute => exact ⟨_, h.keeps_restartRecompute, rfl⟩
  case terminate => exact ⟨_, Holds.bind h.keeps_terminate fun _ => hgive _, rfl⟩
  case stop => exact ⟨_, h.keeps_stopAct, rfl⟩
  case irqDeliver =>
    by_cases hp : irqPending s.params.layout s.c1 s.status = true
    · exact ⟨isr, h.keeps_isr, if_pos hp⟩
    · exact ⟨pure (), keeps_pure _, by simp [exec, execIrqDeliver, hp, runAct, act_pure]⟩
  all_goals cases hi

/-- What a step of an agent other than a caller thread does: its writes, and the handler may take a
fault after them (R40). -/
def AgentStep (s t : State) : Prop :=
  AgentWrites s t ∨ ∃ e w, AgentWrites s w ∧ t = takeFault .handler e w

theorem agentStep_of_handlerRow {i : Instr} (hi : handlerRow i = true) {s t : State}
    (h : exec i s = .next t) : AgentStep s t := by
  have hst := handlerStable_agentWrites s
  obtain ⟨a, ha, hex⟩ := hst.exec_handlerRow (fun o _ hs => hs.out o) hi s
  rw [hex] at h
  cases h
  exact runAct_keeps (.inl (.refl s)) (fun t ht => .inl ((ha s (.refl s)).1 _ t ht))
    fun e w hw => .inr ⟨e, w, (ha s (.refl s)).2 e w hw, rfl⟩

/-- The register commands that no agent of R40 runs (R84 to R87). -/
def registerRow : Instr → Bool
  | .cmdStart | .cmdRestart | .cmdRxAck | .cmdRxNoack | .cmdTx | .cmdStop | .cmdIdle | .clrAll
  | .clrIf | .addrW _ | .addrR _ | .dataW _ | .freqF _ | .freqFlt _ | .rdS | .rdC1 => true
  | _ => false

theorem agentWrites_of_registerRow {i : Instr} (hi : registerRow i = true) {s t : State}
    (h : exec i s = .next t) : AgentWrites s t := by
  have hs := AgentWrites.refl s
  cases i
  case cmdStart | cmdRestart | cmdRxAck | cmdRxNoack | cmdTx | cmdStop | cmdIdle =>
    cases h; exact hs.writeC1 _
  case clrAll | clrIf => cases h; exact hs.writeS _
  case addrW | addrR | dataW => cases h; exact hs.writeD _
  case freqF | freqFlt | rdS | rdC1 =>
    cases h; exact hs.write rfl (.inl rfl) ⟨[], (List.append_nil _).symm⟩ ⟨_, rfl⟩
  all_goals cases hi

theorem agentWrites_loseArbitration (s : State) : AgentWrites s (loseArbitration s) :=
  (AgentWrites.refl s).write rfl (.inl rfl) ⟨_, rfl⟩ ⟨[], by simp⟩

theorem agentWrites_txComplete (o : TxOutcome) (s : State) : AgentWrites s (txComplete o s) := by
  have hs := AgentWrites.refl s
  cases hp : s.pending with
  | txByte b =>
    simp only [txComplete, hp]
    cases o with
    | ack => exact hs.write rfl (.inl rfl) ⟨_, rfl⟩ ⟨[], by simp⟩
    | nak => exact hs.write rfl (.inl rfl) ⟨_, rfl⟩ ⟨[], by simp⟩
    | lost => exact agentWrites_loseArbitration s
  | rxByte _ => rwa [txComplete_of_no_txByte (by simp [hp])]
  | none => rwa [txComplete_of_no_txByte (by simp [hp])]

theorem agentWrites_rxComplete (o : RxOutcome) (s : State) : AgentWrites s (rxComplete o s) := by
  have hs := AgentWrites.refl s
  cases hp : s.pending with
  | rxByte ack =>
    simp only [rxComplete, hp]
    cases o with
    | byte v => exact hs.write rfl (.inl rfl) ⟨_, rfl⟩ ⟨[], by simp⟩
    | lost => exact agentWrites_loseArbitration s
  | txByte _ => rwa [rxComplete_of_no_rxByte (by simp [hp])]
  | none => rwa [rxComplete_of_no_rxByte (by simp [hp])]

theorem agentWrites_otherMaster (busy : Bool) (s : State) : AgentWrites s (otherMaster busy s) := by
  unfold otherMaster
  split
  · exact .refl s
  · exact (AgentWrites.refl s).silent rfl

theorem agentWrites_strayFlags (iicif arbl rxak clearMst : Bool) (s : State) :
    AgentWrites s (strayFlags iicif arbl rxak clearMst s) := by
  rw [strayFlags_frame]
  exact (AgentWrites.refl s).silent rfl

theorem agentWrites_watchdogHandler (g : Nat) {s t : State} (h : AgentWrites s t) :
    AgentWrites s (watchdogHandler g t) := by
  unfold watchdogHandler
  split
  · exact AgentWrites.signalDone (h.silent rfl)
  · exact h

theorem agentWrites_expireWatchdog (s : State) : AgentWrites s (expireWatchdog s) := by
  unfold expireWatchdog
  split
  · exact agentWrites_watchdogHandler _ ((AgentWrites.refl s).silent rfl)
  · exact .refl s

/-! ### What a phase of a caller thread does -/

/-- Thread `u` at label `q`. -/
def State.goto (s : State) (u : Nat) (q : Phase) : State := s.updCaller u fun c => { c with pc := q }

theorem caller_goto_same (s : State) (u : Nat) (q : Phase) :
    (s.goto u q).caller u = { s.caller u with pc := q } := caller_updCaller_same ..

theorem caller_goto_other (s : State) {u v : Nat} (h : v ≠ u) (q : Phase) :
    (s.goto u q).caller v = s.caller v := caller_updCaller_other _ h _

/-- SetFrequency(f) (R175) as a state. -/
def programmed (hz : Nat) (s : State) : State :=
  if s.ts.freqCache = some hz then s
  else
    { writeFlt (Config.freqTable hz).2 (writeF (Config.freqTable hz).1 s) with
      ts := { s.ts with freqCache := some hz } }

theorem setFrequencyAct_ok (hz : Nat) (s : State) :
    setFrequencyAct hz s = .ok () (programmed hz s) := by
  by_cases h : s.ts.freqCache = some hz
  · simp [setFrequencyAct, programmed, act_bind, act_pure, h]
  · simp [setFrequencyAct, programmed, act_bind, setTs, h]

/-- The first write of T_STEP (R178): a new generation. -/
def opened (s : State) : State := { s with gen := s.gen + 1 }

/-- Where a phase of thread `u` that is done leads (R172 to R186): from label `p` to label `q`, with the
other effects of the phase in `w`. -/
inductive PhaseGoes (u : Nat) (s : State) : Phase → Phase → State → Prop where
  | lock (h : s.locked = false) : PhaseGoes u s .tLock .tInit { s with locked := true }
  | init (hok : (callChain (s.caller u).msgs (s.caller u).count).any unsupported = false)
      (hpos : 1 ≤ (s.caller u).count) :
      PhaseGoes u s .tInit .tFreq
        { s with ts := initTs (s.caller u).msgs (s.caller u).count s.ts }
  | freq {m : Message} (hm : msgAt 0 s = .ok m s) :
      PhaseGoes u s .tFreq .tClear (programmed m.frequency s)
  | clear : PhaseGoes u s .tClear .tLoop (clearCommand clrAllByte s)
  | loop {more : Bool} (hmore : loopGoesOn s = .ok more s) :
      PhaseGoes u s .tLoop (if more then .tStep else .tExit) s
  | step {i : Int} {r : Bool} (hi : s.ts.idx = some i)
      (hr : restartForAct i (opened s) = .ok r (opened s)) :
      PhaseGoes u s .tStep .tAcq { opened s with ts := { s.ts with restart := some r } }
  | acq {m : Message} (hm : curMsg s = .ok m s) :
      PhaseGoes u s .tAcq (if m.nostart then .tArm else .aTest) s
  | test :
      PhaseGoes u s .aTest (if c1Mst s.params.layout s.c1 then .aRestart else .aWaitfree)
        (({ s with cmds := s.cmds ++ [.read .c1 s.c1] } : State).updCaller u
          fun c => { c with mst := c1Mst s.params.layout s.c1 })
  | restart : PhaseGoes u s .aRestart .aAddr (command cmdRestartByte s)
  | waitfree :
      PhaseGoes u s .aWaitfree (if sBusy s.params.layout s.status then .aWaitfree else .aStart)
        { s with cmds := s.cmds ++ [.read .s s.status] }
  | start : PhaseGoes u s .aStart .aAddr (command cmdStartByte s)
  | addr {m : Message} (hm : curMsg s = .ok m s) :
      PhaseGoes u s .aAddr .tArm (writeD (addrByte m) s)
  | arm : PhaseGoes u s .tArm .tWait (armWatchdog Config.wdtTimeout s.gen s)
  | wait (h : s.doneGen = s.gen) : PhaseGoes u s .tWait .tCancel s
  | cancel : PhaseGoes u s .tCancel .tLoop (cancelWatchdog s)
  | exit : PhaseGoes u s .tExit .tResult (command cmdIdleByte s)
  | result {st : Status} (hst : s.ts.status = some st) :
      PhaseGoes u s .tResult .tUnlock
        (s.updCaller u fun c => { c with result := publicResult st s.params.eio })
  | unlock :
      PhaseGoes u s .tUnlock .idle
        { s with locked := false, returns := s.returns ++ [(u, (s.caller u).result)] }

/-- Where a phase raises a model fault: only at a read of the record, or on an empty chain (R173). -/
inductive PhaseRaises (u : Nat) (s : State) : Phase → FaultReason → State → Prop where
  | empty (hc : (s.caller u).count < 1) : PhaseRaises u s .tInit .emptyChain s
  | freq {e : FaultReason} (h : msgAt 0 s = .error e s) : PhaseRaises u s .tFreq e s
  | loop {e : FaultReason} (h : loopGoesOn s = .error e s) : PhaseRaises u s .tLoop e s
  | stepIdx (h : s.ts.idx = none) : PhaseRaises u s .tStep .unsetRead (opened s)
  | step {i : Int} {e : FaultReason} (hi : s.ts.idx = some i)
      (h : restartForAct i (opened s) = .error e (opened s)) : PhaseRaises u s .tStep e (opened s)
  | acq {e : FaultReason} (h : curMsg s = .error e s) : PhaseRaises u s .tAcq e s
  | addr {e : FaultReason} (h : curMsg s = .error e s) : PhaseRaises u s .aAddr e s
  | result (h : s.ts.status = none) : PhaseRaises u s .tResult .unsetRead s

/-- All that a row at label `p` can do for thread `u`: nothing (it is not enabled, or it waits), the
refusal of R91, its effects, or a fault. -/
inductive PhaseStep (u : Nat) (p : Phase) (s : State) : State → Prop where
  | hold : PhaseStep u p s s
  | refuse (hrow : p = .tInit) (hpc : (s.caller u).pc = p) : PhaseStep u p s { s with refused := true }
  | go {q : Phase} {w : State} (hpc : (s.caller u).pc = p) (h : PhaseGoes u s p q w) :
      PhaseStep u p s (w.goto u q)
  | fault {e : FaultReason} {w : State} (hpc : (s.caller u).pc = p) (h : PhaseRaises u s p e w) :
      PhaseStep u p s (takeFault (.caller u) e w)

/-- An action that runs as a phase: what it answers or raises is a `PhaseStep`. -/
def PhaseAct (u : Nat) (p : Phase) (a : Act Unit) : Prop :=
  ∀ s, (s.caller u).pc = p →
    (∃ t, a s = .ok () t ∧ PhaseStep u p s t) ∨ ∃ e w, a s = .error e w ∧ PhaseRaises u s p e w

theorem PhaseAct.coordStep {u : Nat} {p : Phase} {a : Act Unit} (h : PhaseAct u p a) (s : State) :
    PhaseStep u p s (coordStep u p a s) := by
  refine coordStep_keeps .hold fun hpc => runAct_keeps .hold (fun t ht => ?_) fun e w hw => ?_
  · rcases h s hpc with ⟨t', ht', hstep⟩ | ⟨e, w, hw, -⟩
    · rw [ht] at ht'; cases ht'; exact hstep
    · rw [ht] at hw; cases hw
  · rcases h s hpc with ⟨t', ht', -⟩ | ⟨e, w, hw', hraise⟩
    · rw [hw] at ht'; cases ht'
    · rw [hw] at hw'; cases hw'; exact .fault hpc hraise

/-- An action that keeps "the state is `s`" writes nothing there. -/
theorem writes_nothing_of_keeps {α : Type} {a : Act α} {s : State} (h : Keeps (· = s) a) :
    (∃ x, a s = .ok x s) ∨ ∃ e, a s = .error e s := by
  cases ha : a s with
  | ok x t => obtain rfl := (h s rfl).1 x t ha; exact .inl ⟨x, rfl⟩
  | error e t => obtain rfl := (h s rfl).2 e t ha; exact .inr ⟨e, rfl⟩

theorem keeps_loopGoesOn {P : State → Prop} : Keeps P loopGoesOn := by
  unfold loopGoesOn
  refine Holds.bind (keeps_need _) fun _ => Holds.ite (fun _ => ?_) fun _ => keeps_pure _
  exact Holds.bind (keeps_need _) fun _ => keeps_pure _

/-- T_STEP reads the record in the new generation (R178). -/
theorem tStepAct_eq (u : Nat) (s : State) :
    tStepAct u s = (do
      let i ← need (·.idx)
      let r ← restartForAct i
      setTs fun ts => { ts with restart := some r }
      setPc u .tAcq : Act Unit) (opened s) := rfl

section PhaseActs
variable (u : Nat)

theorem phaseAct_tLock : PhaseAct u .tLock (tLockAct u) := by
  intro s hpc
  cases hl : s.locked with
  | true => exact .inl ⟨s, tLockAct_of_locked hl, .hold⟩
  | false => exact .inl ⟨_, by simp [tLockAct, act_bind, setPc, hl]; rfl, .go hpc (.lock hl)⟩

theorem phaseAct_tInit : PhaseAct u .tInit (tInitAct u) := by
  intro s hpc
  cases hr : (callChain (s.caller u).msgs (s.caller u).count).any unsupported with
  | true => exact .inl ⟨_, by simp [tInitAct, act_bind, refuse, hr, -List.any_eq_true],
      .refuse rfl hpc⟩
  | false =>
    by_cases hc : (s.caller u).count < 1
    · exact .inr ⟨_, s, by simp [tInitAct, act_bind, hr, hc, -List.any_eq_true], .empty hc⟩
    · exact .inl ⟨_, by
        simp [tInitAct, act_bind, setTs, setPc, hr, hc, -List.any_eq_true]; rfl,
        .go hpc (.init hr (by omega))⟩

theorem phaseAct_tFreq : PhaseAct u .tFreq (tFreqAct u) := by
  intro s hpc
  rcases msgAt_writes_nothing 0 s with ⟨m, hm⟩ | ⟨e, he⟩
  · exact .inl ⟨_, by simp [tFreqAct, act_bind, setFrequencyAct_ok, setPc, hm]; rfl,
      .go hpc (.freq hm)⟩
  · exact .inr ⟨e, s, by simp [tFreqAct, act_bind, he], .freq he⟩

theorem phaseAct_tClear : PhaseAct u .tClear (tClearAct u) := fun _ hpc =>
  .inl ⟨_, rfl, .go hpc .clear⟩

theorem phaseAct_tLoop : PhaseAct u .tLoop (tLoopAct u) := by
  intro s hpc
  rcases writes_nothing_of_keeps (s := s) keeps_loopGoesOn with ⟨b, hb⟩ | ⟨e, he⟩
  · exact .inl ⟨_, by simp [tLoopAct, act_bind, setPc, hb]; rfl, .go hpc (.loop hb)⟩
  · exact .inr ⟨e, s, by simp [tLoopAct, act_bind, he], .loop he⟩

theorem phaseAct_tStep : PhaseAct u .tStep (tStepAct u) := by
  intro s hpc
  cases hi : s.ts.idx with
  | none =>
    exact .inr ⟨_, opened s, by
      simp [tStepAct_eq, act_bind, need_none (f := (·.idx)) (s := opened s) hi], .stepIdx hi⟩
  | some i =>
    have hn := need_some (f := (·.idx)) (s := opened s) hi
    rcases writes_nothing_of_keeps (s := opened s) (keeps_restartForAct i) with ⟨r, hr⟩ | ⟨e, he⟩
    · exact .inl ⟨_, by simp [tStepAct_eq, act_bind, setTs, setPc, hn, hr]; rfl,
        .go hpc (.step hi hr)⟩
    · exact .inr ⟨e, opened s, by simp [tStepAct_eq, act_bind, hn, he], .step hi he⟩

theorem phaseAct_tAcq : PhaseAct u .tAcq (tAcqAct u) := by
  intro s hpc
  rcases curMsg_writes_nothing s with ⟨m, hm⟩ | ⟨e, he⟩
  · exact .inl ⟨_, by simp [tAcqAct, act_bind, setPc, hm]; rfl, .go hpc (.acq hm)⟩
  · exact .inr ⟨e, s, by simp [tAcqAct, act_bind, he], .acq he⟩

theorem phaseAct_aTest : PhaseAct u .aTest (aTestAct u) := fun _ hpc =>
  .inl ⟨_, rfl, .go hpc .test⟩

theorem phaseAct_aRestart : PhaseAct u .aRestart (aRestartAct u) := fun _ hpc =>
  .inl ⟨_, rfl, .go hpc .restart⟩

theorem phaseAct_aWaitfree : PhaseAct u .aWaitfree (aWaitfreeAct u) := fun _ hpc =>
  .inl ⟨_, rfl, .go hpc .waitfree⟩

theorem phaseAct_aStart : PhaseAct u .aStart (aStartAct u) := fun _ hpc =>
  .inl ⟨_, rfl, .go hpc .start⟩

theorem phaseAct_aAddr : PhaseAct u .aAddr (aAddrAct u) := by
  intro s hpc
  rcases curMsg_writes_nothing s with ⟨m, hm⟩ | ⟨e, he⟩
  · exact .inl ⟨_, by simp [aAddrAct, act_bind, setPc, hm]; rfl, .go hpc (.addr hm)⟩
  · exact .inr ⟨e, s, by simp [aAddrAct, act_bind, he], .addr he⟩

theorem phaseAct_tArm : PhaseAct u .tArm (tArmAct u) := fun _ hpc => .inl ⟨_, rfl, .go hpc .arm⟩

theorem phaseAct_tWait : PhaseAct u .tWait (tWaitAct u) := by
  intro s hpc
  by_cases hg : s.doneGen = s.gen
  · exact .inl ⟨_, by simp [tWaitAct, act_bind, setPc, hg]; rfl, .go hpc (.wait hg)⟩
  · exact .inl ⟨s, tWaitAct_of_incomplete hg, .hold⟩

theorem phaseAct_tCancel : PhaseAct u .tCancel (tCancelAct u) := fun _ hpc =>
  .inl ⟨_, rfl, .go hpc .cancel⟩

theorem phaseAct_tExit : PhaseAct u .tExit (tExitAct u) := fun _ hpc => .inl ⟨_, rfl, .go hpc .exit⟩

theorem phaseAct_tResult : PhaseAct u .tResult (tResultAct u) := by
  intro s hpc
  cases hst : s.ts.status with
  | none =>
    exact .inr ⟨_, s, by simp [tResultAct, act_bind, need_none (f := (·.status)) hst], .result hst⟩
  | some st =>
    exact .inl ⟨_, by simp [tResultAct, act_bind, setPc, need_some (f := (·.status)) hst]; rfl,
      .go hpc (.result hst)⟩

theorem phaseAct_tUnlock : PhaseAct u .tUnlock (tUnlockAct u) := fun _ hpc =>
  .inl ⟨_, rfl, .go hpc .unlock⟩

end PhaseActs

/-- A phase row does a `PhaseStep` of its thread (R33). -/
theorem phaseStep_of_phaseRow {i : Instr} {u : Nat} {p : Phase} (hi : phaseRow i = some (u, p))
    {s t : State} (h : exec i s = .next t) : PhaseStep u p s t := by
  cases i <;> cases hi <;> cases h
  · exact (phaseAct_tLock u).coordStep s
  · exact (phaseAct_tInit u).coordStep s
  · exact (phaseAct_tFreq u).coordStep s
  · exact (phaseAct_tClear u).coordStep s
  · exact (phaseAct_tLoop u).coordStep s
  · exact (phaseAct_tStep u).coordStep s
  · exact (phaseAct_tAcq u).coordStep s
  · exact (phaseAct_aTest u).coordStep s
  · exact (phaseAct_aRestart u).coordStep s
  · exact (phaseAct_aWaitfree u).coordStep s
  · exact (phaseAct_aStart u).coordStep s
  · exact (phaseAct_aAddr u).coordStep s
  · exact (phaseAct_tArm u).coordStep s
  · exact (phaseAct_tWait u).coordStep s
  · exact (phaseAct_tCancel u).coordStep s
  · exact (phaseAct_tExit u).coordStep s
  · exact (phaseAct_tResult u).coordStep s
  · exact (phaseAct_tUnlock u).coordStep s

/-! ### What a phase leaves alone -/

/-- The frame of a phase of thread `u` (R33, R42), with what it may record. -/
structure PhaseFrame (u : Nat) (s t : State) : Prop where
  others : ∀ v, v ≠ u → t.caller v = s.caller v
  stopped : (s.caller u).stopped = true → (t.caller u).stopped = true
  mem : t.mem = s.mem
  rxLatch : t.rxLatch = s.rxLatch
  handlerStopped : t.handlerStopped = s.handlerStopped
  gen : s.gen ≤ t.gen
  doneGen : t.doneGen = s.doneGen
  params : t.params = s.params
  agenda : t.agenda = s.agenda
  tick : t.tick = s.tick
  out : t.out = s.out
  bus : ∃ x, t.bus = s.bus ++ x
  cmds : ∃ x, t.cmds = s.cmds ++ x
  returns : ∃ x, t.returns = s.returns ++ x
  refused : s.refused = true → t.refused = true
  faults : ∀ r, s.faults.has r = true → t.faults.has r = true

theorem PhaseFrame.refl (u : Nat) (s : State) : PhaseFrame u s s where
  others _ _ := rfl
  stopped := id
  mem := rfl
  rxLatch := rfl
  handlerStopped := rfl
  gen := Nat.le_refl _
  doneGen := rfl
  params := rfl
  agenda := rfl
  tick := rfl
  out := rfl
  bus := ⟨[], by simp⟩
  cmds := ⟨[], by simp⟩
  returns := ⟨[], by simp⟩
  refused := id
  faults _ := id

/-- A change of thread `u`'s record that does not start it again. -/
theorem PhaseFrame.updCaller {u : Nat} {s w : State} (h : PhaseFrame u s w) (g : Caller → Caller)
    (hg : ∀ c, c.stopped = true → (g c).stopped = true) : PhaseFrame u s (w.updCaller u g) :=
  { h with
    others := fun v hv => (caller_updCaller_other w hv g).trans (h.others v hv)
    stopped := fun hs => by rw [caller_updCaller_same]; exact hg _ (h.stopped hs) }

/-- Adding a reason to the record adds that reason alone (R40). -/
theorem FaultSet.has_add (fs : FaultSet) (e r : FaultReason) :
    (fs.add e).has r = (decide (e = r) || fs.has r) := by
  cases e <;> cases r <;> rfl

theorem FaultSet.has_add_of_has {fs : FaultSet} {r : FaultReason} (e : FaultReason)
    (h : fs.has r = true) : (fs.add e).has r = true := by
  rw [FaultSet.has_add, h, Bool.or_true]

theorem PhaseFrame.takeFault {u : Nat} {s w : State} (h : PhaseFrame u s w) (e : FaultReason) :
    PhaseFrame u s (takeFault (.caller u) e w) :=
  PhaseFrame.updCaller (w := { w with faults := w.faults.add e })
    { h with faults := fun r hr => FaultSet.has_add_of_has e (h.faults r hr) }
    (fun c => { c with stopped := true }) fun _ _ => rfl

theorem programmed_frame (hz : Nat) (s : State) :
    programmed hz s = { s with
      f := (programmed hz s).f, flt := (programmed hz s).flt, cmds := (programmed hz s).cmds
      ts := { s.ts with freqCache := (programmed hz s).ts.freqCache } } := by
  unfold programmed
  split <;> rfl

theorem programmed_cmds (hz : Nat) (s : State) : ∃ x, (programmed hz s).cmds = s.cmds ++ x := by
  unfold programmed
  split
  · exact ⟨[], by simp⟩
  · exact ⟨_, by simp; rfl⟩

theorem PhaseGoes.frame {u : Nat} {s w : State} {p q : Phase} (h : PhaseGoes u s p q w) :
    PhaseFrame u s w := by
  have hs := PhaseFrame.refl u s
  cases h with
  | lock => exact { hs with }
  | init => exact { hs with }
  | freq => rw [programmed_frame]; exact { hs with cmds := programmed_cmds .. }
  | clear => exact { hs with cmds := ⟨_, rfl⟩ }
  | loop => exact hs
  | step => exact { hs with gen := Nat.le_succ _ }
  | acq => exact hs
  | test =>
    exact PhaseFrame.updCaller (w := { s with cmds := s.cmds ++ [.read .c1 s.c1] })
      { hs with cmds := ⟨_, rfl⟩ } _ fun _ => id
  | restart => exact { hs with cmds := ⟨_, rfl⟩, bus := ⟨_, rfl⟩ }
  | waitfree => exact { hs with cmds := ⟨_, rfl⟩ }
  | start => exact { hs with cmds := ⟨_, rfl⟩, bus := ⟨_, rfl⟩ }
  | addr => exact { hs with cmds := ⟨_, rfl⟩ }
  | arm => exact { hs with }
  | wait => exact hs
  | cancel => exact { hs with }
  | exit => exact { hs with cmds := ⟨_, rfl⟩, bus := ⟨_, rfl⟩ }
  | result => exact hs.updCaller _ fun _ => id
  | unlock => exact { hs with returns := ⟨_, rfl⟩ }

theorem PhaseRaises.frame {u : Nat} {s w : State} {p : Phase} {e : FaultReason}
    (h : PhaseRaises u s p e w) : PhaseFrame u s w := by
  have hs := PhaseFrame.refl u s
  cases h with
  | stepIdx | step => exact { hs with gen := Nat.le_succ _ }
  | empty | freq | loop | acq | addr | result => exact hs

/-- A phase of one thread leaves the rest alone (R33, R42). -/
theorem PhaseStep.frame {u : Nat} {p : Phase} {s t : State} (h : PhaseStep u p s t) :
    PhaseFrame u s t := by
  cases h with
  | hold => exact .refl u s
  | refuse => exact { PhaseFrame.refl u s with refused := fun _ => rfl }
  | go _ hgo => exact hgo.frame.updCaller _ fun _ => id
  | fault _ hraise => exact hraise.frame.takeFault _

/-- Of the Transfer State a phase after T_INIT writes `restart` and `freq_cache` alone (R174, R178). -/
theorem PhaseGoes.ts {u : Nat} {s w : State} {p q : Phase} (h : PhaseGoes u s p q w) (hp : p ≠ .tInit) :
    w.ts = { s.ts with restart := w.ts.restart, freqCache := w.ts.freqCache } := by
  cases h with
  | init => exact absurd rfl hp
  | freq => rw [programmed_frame]
  | _ => rfl

theorem PhaseStep.ts {u : Nat} {p : Phase} {s t : State} (h : PhaseStep u p s t) (hp : p ≠ .tInit) :
    t.ts = { s.ts with restart := t.ts.restart, freqCache := t.ts.freqCache } := by
  cases h with
  | hold | refuse => rfl
  | go _ hgo => exact hgo.ts hp
  | fault _ hraise => cases hraise <;> rfl

/-! ### What one entry of the schedule does -/

/-- A CALL from thread context that is enabled (R171). -/
def CallEnters (u : Nat) (msgs : List Message) (count : Int) (s t : State) : Prop :=
  (s.caller u).pc = .idle ∧ (s.caller u).stopped = false ∧ u < s.params.nCallers ∧
    t = s.updCaller u fun c => { c with pc := .tLock, msgs := msgs, count := count }

/-- All that one entry of the schedule can do to the state: a step of an agent that is no caller thread,
a phase, a call, or the mark of a refused call (R11, R41). -/
inductive SlotStep (s : State) : State → Prop where
  | agent {t : State} (h : AgentStep s t) : SlotStep s t
  | phase {u : Nat} {p : Phase} {t : State} (hrow : p ≠ .idle) (h : PhaseStep u p s t) : SlotStep s t
  | call {u : Nat} {msgs : List Message} {count : Int} {t : State} (h : CallEnters u msgs count s t) :
      SlotStep s t
  | refused : SlotStep s { s with refused := true }

theorem decode_rows {L : Layout} {c : Code} {i : Instr} (h : decode L c = .ok i) :
    registerRow i = true ∨ handlerRow i = true := by
  cases c with
  | c1Write mst v =>
    simp only [decode, decodeC1] at h
    split_ifs at h <;> cases h <;> exact .inl rfl
  | sWrite v =>
    simp only [decode, decodeS] at h
    split_ifs at h <;> cases h <;> exact .inl rfl
  | addrWrite v =>
    simp only [decode, decodeAddr] at h
    split_ifs at h <;> cases h <;> exact .inl rfl
  | dispatch b v =>
    simp only [decode] at h
    split_ifs at h
    cases h
    cases b <;> exact .inr rfl
  | dataRead | dummyRead => cases h; exact .inr rfl
  | dataWrite | fWrite | fltWrite | sRead | c1Read => cases h; exact .inl rfl

theorem firstDecoded_mem {L : Layout} {cs : List Code} {i : Instr} (h : firstDecoded L cs = some i) :
    ∃ c ∈ cs, decode L c = .ok i := by
  induction cs with
  | nil => cases h
  | cons c cs ih =>
    rw [firstDecoded] at h
    split at h
    · cases h; exact ⟨c, by simp, ‹_›⟩
    · obtain ⟨d, hd, hi⟩ := ih h; exact ⟨d, by simp [hd], hi⟩

theorem decodeWord_rows {L : Layout} {nbits w : Nat} {i : Instr} (h : decodeWord L nbits w = some i) :
    registerRow i = true ∨ handlerRow i = true := by
  have hfirst : ∃ cs, firstDecoded L cs = some i := by
    unfold decodeWord at h
    split at h
    · exact ⟨_, h⟩
    · split at h
      · exact ⟨_, h⟩
      · cases h
  obtain ⟨cs, hcs⟩ := hfirst
  obtain ⟨c, -, hc⟩ := firstDecoded_mem hcs
  exact decode_rows hc

theorem phaseRow_of_phaseInstr {u : Nat} {p : Phase} {i : Instr} (h : phaseInstr u p = some i) :
    phaseRow i = some (u, p) := by
  cases p <;> cases h <;> rfl

/-- A call is not enabled, enters, or is refused (R171, R41). -/
theorem callStep_cases (u : Nat) (ctx : Context) (msgs : List Message) (count : Int) (s : State) :
    callStep u ctx msgs count s = s ∨ CallEnters u msgs count s (callStep u ctx msgs count s) ∨
      callStep u ctx msgs count s = { s with refused := true } := by
  cases ctx with
  | interrupt => exact .inr (.inr rfl)
  | timer => exact .inr (.inr rfl)
  | thread =>
    by_cases h : (s.caller u).pc = .idle ∧ (s.caller u).stopped = false ∧ u < s.params.nCallers
    · obtain ⟨hpc, hrun, hlt⟩ := h
      exact .inr (.inl ⟨hpc, hrun, hlt, if_pos ⟨hpc, hrun, hlt⟩⟩)
    · exact .inl (callStep_thread_of_not_enabled h)

theorem slotStep_callStep (u : Nat) (ctx : Context) (msgs : List Message) (count : Int) (s : State) :
    SlotStep s (callStep u ctx msgs count s) := by
  rcases callStep_cases u ctx msgs count s with h | h | h
  · rw [h]; exact .agent (.inl (.refl s))
  · exact .call h
  · rw [h]; exact .refused

/-- An entry of the schedule that gives a next state does a `SlotStep`. -/
theorem slotStep_of_runSlot {x : Slot} {s t : State} (h : runSlot x s = .next t) : SlotStep s t := by
  cases x with
  | word nbits w =>
    cases hd : decodeWord s.params.layout nbits w with
    | none => rw [runSlot_word_of_undecodable hd] at h; cases h
    | some i =>
      rw [runSlot_word_of_decoded hd] at h
      rcases decodeWord_rows hd with hi | hi
      · exact .agent (.inl (agentWrites_of_registerRow hi h))
      · exact .agent (agentStep_of_handlerRow hi h)
  | move m =>
    cases m with
    | thread u =>
      cases hi : phaseInstr u (s.caller u).pc with
      | none =>
        rw [runSlot_move_of_unselected (m := .thread u) hi] at h
        cases h
        exact .agent (.inl (.refl s))
      | some i =>
        rw [runSlot_move_of_selected (m := .thread u) hi] at h
        refine .phase (fun hp => ?_) (phaseStep_of_phaseRow (phaseRow_of_phaseInstr hi) h)
        rw [hp] at hi
        cases hi
    | call u ctx msgs count => cases h; exact slotStep_callStep u ctx msgs count s
    | resetCall => cases h; exact .agent (.inl ((AgentWrites.refl s).out _))
    | irq => exact .agent (agentStep_of_handlerRow (i := .irqDeliver) rfl h)
    | expire => cases h; exact .agent (.inl (agentWrites_expireWatchdog s))
    | txComplete o => cases h; exact .agent (.inl (agentWrites_txComplete o s))
    | rxComplete o => cases h; exact .agent (.inl (agentWrites_rxComplete o s))
    | otherMaster busy => cases h; exact .agent (.inl (agentWrites_otherMaster busy s))
    | stray a b c d => cases h; exact .agent (.inl (agentWrites_strayFlags a b c d s))

/-- A step takes an entry off the schedule, if it is not empty, and runs it (R11, R236). -/
theorem step_takes_entry {s t : State} (h : step s = .next t) :
    ∃ x rest k, runSlot x { s with agenda := rest, tick := k } = .next t ∧
      (x ∈ s.agenda ∨ ∃ m, x = .move m) ∧ ∀ y ∈ rest, y ∈ s.agenda := by
  cases ha : s.agenda with
  | nil => exact ⟨_, s.agenda, _, step_of_empty_agenda ha ▸ h, .inr ⟨_, rfl⟩, by simp [ha]⟩
  | cons x rest =>
    exact ⟨x, rest, s.tick, step_of_agenda ha ▸ h, .inl (by simp), fun y hy => by simp [hy]⟩

/-- What a step can do: the schedule moves on, and the entry taken does a `SlotStep`. -/
theorem slotStep_of_step {s t : State} (h : step s = .next t) :
    ∃ rest k, SlotStep { s with agenda := rest, tick := k } t := by
  obtain ⟨x, rest, k, hrun, -, -⟩ := step_takes_entry h
  exact ⟨rest, k, slotStep_of_runSlot hrun⟩

/-! ### The lock (R31) -/

/-- The lock stays exclusive where no thread takes or releases it. -/
theorem LockExclusive.of_labels {s t : State} (h : LockExclusive s) (hl : t.locked = s.locked)
    (hpc : ∀ v, holdsLock (t.caller v).pc = holdsLock (s.caller v).pc) : LockExclusive t := by
  simpa only [LockExclusive, hl, hpc] using h

/-- A free lock has no holder. -/
theorem LockExclusive.no_holder {s : State} (h : LockExclusive s) (hl : s.locked = false) (v : Nat) :
    holdsLock (s.caller v).pc = false := by
  by_contra hv
  have := h.2.2 ⟨v, by simpa using hv⟩
  simp [hl] at this

/-- The holder is alone. -/
theorem LockExclusive.others {s : State} (h : LockExclusive s) {u v : Nat}
    (hu : holdsLock (s.caller u).pc = true) (hv : v ≠ u) : holdsLock (s.caller v).pc = false := by
  by_contra hc
  exact hv (h.1 v u (by simpa using hc) hu)

/-- One thread at most can hold the lock when the others do not. -/
theorem lockExclusive_of_others {t : State} {u : Nat}
    (hothers : ∀ v, v ≠ u → holdsLock (t.caller v).pc = false)
    (hu : t.locked = holdsLock (t.caller u).pc) : LockExclusive t := by
  have honly : ∀ v, holdsLock (t.caller v).pc = true → v = u := fun v hv => by
    by_contra hne
    simp [hothers v hne] at hv
  refine ⟨fun v w hv hw => (honly v hv).trans (honly w hw).symm, fun hl => ⟨u, hu ▸ hl⟩, ?_⟩
  rintro ⟨v, hv⟩
  rw [hu, ← honly v hv, hv]

/-- A phase keeps the lock, takes a free one, or releases it (R172, R186). -/
theorem PhaseGoes.lock_cases {u : Nat} {s w : State} {p q : Phase} (h : PhaseGoes u s p q w) :
    (holdsLock p = true ∧ holdsLock q = true ∧ w.locked = s.locked) ∨
    (s.locked = false ∧ holdsLock q = true ∧ w.locked = true) ∨
    (holdsLock p = true ∧ holdsLock q = false ∧ w.locked = false) := by
  cases h with
  | lock hl => exact .inr (.inl ⟨hl, rfl, rfl⟩)
  | unlock => exact .inr (.inr ⟨rfl, rfl, rfl⟩)
  | freq => exact .inl ⟨rfl, rfl, by rw [programmed_frame]⟩
  | loop | acq | test | waitfree => exact .inl ⟨rfl, by split <;> rfl, rfl⟩
  | init | clear | step | restart | start | addr | arm | wait | cancel | exit | result =>
    exact .inl ⟨rfl, rfl, rfl⟩

/-- While a thread leaves a phase, no other thread holds the lock: it holds it itself, or it finds it
free. -/
theorem PhaseGoes.others_free {u : Nat} {s w : State} {p q : Phase} (h : PhaseGoes u s p q w)
    (hs : LockExclusive s) (hpc : (s.caller u).pc = p) {v : Nat} (hv : v ≠ u) :
    holdsLock (s.caller v).pc = false := by
  rcases h.lock_cases with ⟨hp, -, -⟩ | ⟨hl, -, -⟩ | ⟨hp, -, -⟩
  · exact hs.others (hpc ▸ hp) hv
  · exact hs.no_holder hl v
  · exact hs.others (hpc ▸ hp) hv

theorem PhaseGoes.lockExclusive {u : Nat} {s w : State} {p q : Phase} (h : PhaseGoes u s p q w)
    (hs : LockExclusive s) (hpc : (s.caller u).pc = p) : LockExclusive (w.goto u q) := by
  refine lockExclusive_of_others (u := u) (fun v hv => ?_) ?_
  · rw [caller_goto_other w hv, h.frame.others v hv]
    exact h.others_free hs hpc hv
  · rw [caller_goto_same]
    show w.locked = holdsLock q
    rcases h.lock_cases with ⟨hp, hq, hw⟩ | ⟨-, hq, hw⟩ | ⟨-, hq, hw⟩
    · rw [hw, hq, hs.2]
      exact ⟨u, hpc ▸ hp⟩
    · rw [hw, hq]
    · rw [hw, hq]

/-- The thread that takes a fault stops where it is (R40). -/
theorem caller_takeFault_same (u : Nat) (e : FaultReason) (s : State) :
    (takeFault (.caller u) e s).caller u = { s.caller u with stopped := true } :=
  caller_updCaller_same { s with faults := s.faults.add e } u fun c => { c with stopped := true }

theorem caller_takeFault_other {u v : Nat} (h : v ≠ u) (e : FaultReason) (s : State) :
    (takeFault (.caller u) e s).caller v = s.caller v :=
  caller_updCaller_other { s with faults := s.faults.add e } h fun c => { c with stopped := true }

/-- Taking a fault moves no thread. -/
theorem caller_pc_takeFault (r : Runner) (e : FaultReason) (s : State) (v : Nat) :
    ((takeFault r e s).caller v).pc = (s.caller v).pc := by
  cases r with
  | handler => rfl
  | caller u =>
    by_cases hv : v = u
    · subst hv; rw [caller_takeFault_same]
    · rw [caller_takeFault_other hv]

theorem locked_takeFault (r : Runner) (e : FaultReason) (s : State) :
    (takeFault r e s).locked = s.locked := by cases r <;> rfl

/-- A fault of a phase is raised before the phase changes a thread or the lock. -/
theorem PhaseRaises.eq_or_opened {u : Nat} {s w : State} {p : Phase} {e : FaultReason}
    (h : PhaseRaises u s p e w) : w = s ∨ w = opened s := by
  cases h with
  | stepIdx | step => exact .inr rfl
  | empty | freq | loop | acq | addr | result => exact .inl rfl

theorem PhaseStep.lockExclusive {u : Nat} {p : Phase} {s t : State} (h : PhaseStep u p s t)
    (hs : LockExclusive s) : LockExclusive t := by
  cases h with
  | hold => exact hs
  | refuse => exact hs
  | go hpc hgo => exact hgo.lockExclusive hs hpc
  | @fault e w _ hraise =>
    have hw : LockExclusive w := by rcases hraise.eq_or_opened with rfl | rfl <;> exact hs
    exact hw.of_labels (locked_takeFault ..) fun v => by rw [caller_pc_takeFault]

theorem AgentStep.lockExclusive {s t : State} (h : AgentStep s t) (hs : LockExclusive s) :
    LockExclusive t := by
  have hwrites {w : State} (hw : AgentWrites s w) : LockExclusive w :=
    hs.of_labels hw.locked fun v => by rw [caller_congr hw.callers]
  rcases h with hw | ⟨e, w, hw, rfl⟩
  · exact hwrites hw
  · exact hwrites (w := w) hw

/-- A call enters in front of the lock (R171). -/
theorem CallEnters.lockExclusive {u : Nat} {msgs : List Message} {count : Int} {s t : State}
    (h : CallEnters u msgs count s t) (hs : LockExclusive s) : LockExclusive t := by
  obtain ⟨hpc, -, -, rfl⟩ := h
  refine hs.of_labels rfl fun v => ?_
  by_cases hv : v = u
  · subst hv
    rw [caller_updCaller_same, hpc]
    rfl
  · rw [caller_updCaller_other _ hv]

theorem SlotStep.lockExclusive {s t : State} (h : SlotStep s t) (hs : LockExclusive s) :
    LockExclusive t := by
  cases h with
  | agent h => exact h.lockExclusive hs
  | phase _ h => exact h.lockExclusive hs
  | call h => exact h.lockExclusive hs
  | refused => exact hs

/-! ### Generations, marks and traces -/

theorem SlotStep.doneGen_le {s t : State} (h : SlotStep s t) (hs : s.doneGen ≤ s.gen) :
    t.doneGen ≤ t.gen := by
  have hwrites {w : State} (hw : AgentWrites s w) : w.doneGen ≤ w.gen := by
    rw [hw.gen]
    rcases hw.doneGen with e | e
    · rw [e]; exact hs
    · rw [e]
  cases h with
  | agent h =>
    rcases h with hw | ⟨e, w, hw, rfl⟩
    · exact hwrites hw
    · exact hwrites (w := w) hw
  | phase _ h => exact h.frame.doneGen ▸ hs.trans h.frame.gen
  | call h =>
    obtain ⟨-, -, -, rfl⟩ := h
    exact hs
  | refused => exact hs

/-- What no step takes back (R40, R41, R13, R6): the marks, the traces, the parameters, and that a thread
numbered N_CALLERS or above is in no call. -/
structure Grows (s t : State) : Prop where
  faults : ∀ r, s.faults.has r = true → t.faults.has r = true
  refused : s.refused = true → t.refused = true
  handlerStopped : s.handlerStopped = true → t.handlerStopped = true
  stopped : ∀ u, (s.caller u).stopped = true → (t.caller u).stopped = true
  bus : ∃ x, t.bus = s.bus ++ x
  cmds : ∃ x, t.cmds = s.cmds ++ x
  returns : ∃ x, t.returns = s.returns ++ x
  params : t.params = s.params
  outsiders : ∀ u, s.params.nCallers ≤ u → (s.caller u).pc = .idle → t.caller u = s.caller u

theorem AgentWrites.grows {s t : State} (h : AgentWrites s t) : Grows s t where
  faults _ hr := h.faults ▸ hr
  refused hr := h.refused ▸ hr
  handlerStopped hs := h.handlerStopped ▸ hs
  stopped u hu := by rwa [caller_congr h.callers]
  bus := h.bus
  cmds := h.cmds
  returns := ⟨[], by rw [h.returns, List.append_nil]⟩
  params := h.params
  outsiders u _ _ := caller_congr h.callers u

theorem AgentStep.grows {s t : State} (h : AgentStep s t) : Grows s t := by
  rcases h with hw | ⟨e, w, hw, rfl⟩
  · exact hw.grows
  · exact { hw.grows with
      faults := fun r hr => FaultSet.has_add_of_has e (hw.grows.faults r hr)
      handlerStopped := fun _ => rfl }

/-- A thread at another label does not move (R33). -/
theorem PhaseStep.caller_of_ne {u : Nat} {p : Phase} {s t : State} (h : PhaseStep u p s t)
    (hp : (s.caller u).pc ≠ p) : t.caller u = s.caller u := by
  cases h with
  | hold => rfl
  | refuse => rfl
  | go hpc _ => exact absurd hpc hp
  | fault hpc _ => exact absurd hpc hp

theorem PhaseStep.grows {u : Nat} {p : Phase} {s t : State} (h : PhaseStep u p s t) (hp : p ≠ .idle) :
    Grows s t where
  faults := h.frame.faults
  refused := h.frame.refused
  handlerStopped hs := h.frame.handlerStopped ▸ hs
  stopped v hv := by
    by_cases hvu : v = u
    · subst hvu; exact h.frame.stopped hv
    · rwa [h.frame.others v hvu]
  bus := h.frame.bus
  cmds := h.frame.cmds
  returns := h.frame.returns
  params := h.frame.params
  outsiders v _ hidle := by
    by_cases hvu : v = u
    · subst hvu
      exact h.caller_of_ne fun hpc => hp (hpc.symm.trans hidle)
    · exact h.frame.others v hvu

theorem CallEnters.grows {u : Nat} {msgs : List Message} {count : Int} {s t : State}
    (h : CallEnters u msgs count s t) : Grows s t := by
  obtain ⟨-, -, hlt, rfl⟩ := h
  exact { (AgentWrites.refl s).grows with
    stopped := fun v hv => by
      by_cases hvu : v = u
      · subst hvu; rw [caller_updCaller_same]; exact hv
      · rwa [caller_updCaller_other _ hvu]
    outsiders := fun v hv _ => caller_updCaller_other _ (by omega) _ }

theorem SlotStep.grows {s t : State} (h : SlotStep s t) : Grows s t := by
  cases h with
  | agent h => exact h.grows
  | phase hp h => exact h.grows hp
  | call h => exact h.grows
  | refused => exact { (AgentWrites.refl s).grows with refused := fun _ => rfl }

/-! ### The walker on a set record (R160 to R164) -/

/-- The restart flag that RESTART RECOMPUTE leaves (R163). -/
def recomputed (mode : RestartMode) (msgs : List Message) (count i : Int) (flag : Bool) : Bool :=
  match mode with
  | .perTransition => restartValue msgs count i
  | .perStep => flag

section Walker
variable {s : State} {msgs : List Message} {count idx n : Int} {flag : Bool}

theorem restartRecomputeAct_ok (hm : s.ts.msgs = some msgs) (hc : s.ts.count = some count)
    (hi : s.ts.idx = some idx) (hr : s.ts.restart = some flag) (h : 0 ≤ idx ∨ count ≤ idx + 1) :
    restartRecomputeAct s = .ok () { s with ts := { s.ts with
      restart := some (recomputed s.params.restartMode msgs count idx flag) } } := by
  cases hmode : s.params.restartMode with
  | perTransition =>
    simp [restartRecomputeAct, act_bind, hmode, need_some (f := (·.idx)) hi,
      restartForAct_ok hm hc h, setTs, recomputed]
  | perStep => simp [restartRecomputeAct, act_bind, act_pure, hmode, recomputed, ← hr]

/-- NEXTMSG with no message left (R160, R164). -/
theorem nextmsgAct_of_last (hn : s.ts.nmsg = some n) (h : n ≤ 1) :
    nextmsgAct s = .ok .terminated
      (signalDone (command cmdStopByte { s with ts := { s.ts with nmsg := some (n - 1) } })) := by
  simp [nextmsgAct, terminateAct, stopAct, signalAct, setTs, act_bind, act_map,
    need_some (f := (·.nmsg)) hn, show ¬1 < n by omega]

/-- ADVANCE with signal from message `idx` (R161). -/
theorem advanceSignalAct_ok (hm : s.ts.msgs = some msgs) (hc : s.ts.count = some count)
    (hi : s.ts.idx = some idx) (hn : s.ts.nmsg = some n) (hr : s.ts.restart = some flag)
    (h : 0 ≤ idx) :
    advanceSignalAct s = .ok .advancedSignalled
      { s with ts := advancedTs s msgs count idx n flag, doneGen := s.gen } := by
  have hrec := restartRecomputeAct_ok (s := { s with
    ts := { s.ts with idx := some (idx + 1), written := some 0, read := some 0 }
    doneGen := s.gen }) hm hc rfl hr (.inl (by omega))
  simp [advanceSignalAct, nextMessageAct, signalAct, signalDone, setTs, act_bind, act_map,
    need_some (f := (·.idx)) hi, hrec, advancedTs, ← hn]
  rfl

/-- ADVANCE without signal (R162). -/
theorem advanceMergedAct_ok (hm : s.ts.msgs = some msgs) (hc : s.ts.count = some count)
    (hi : s.ts.idx = some idx) (hn : s.ts.nmsg = some n) (hr : s.ts.restart = some flag)
    (h : 0 ≤ idx) :
    advanceMergedAct s = .ok .advancedMerged
      { s with ts := advancedTs s msgs count idx n flag } := by
  have hrec := restartRecomputeAct_ok (s := { s with
    ts := { s.ts with idx := some (idx + 1), written := some 0, read := some 0 } })
    hm hc rfl hr (.inl (by omega))
  simp [advanceMergedAct, nextMessageAct, setTs, act_bind, act_map,
    need_some (f := (·.idx)) hi, hrec, advancedTs, ← hn]
  rfl

/-- NEXTMSG with a message left (R160): the restart flag chooses the advance. -/
theorem nextmsgAct_of_more (hn : s.ts.nmsg = some n) (hr : s.ts.restart = some flag) (h : 1 < n) :
    nextmsgAct s = (if flag then advanceSignalAct else advanceMergedAct)
      { s with ts := { s.ts with nmsg := some (n - 1) } } := by
  have hflag := need_some (f := (·.restart))
    (s := { s with ts := { s.ts with nmsg := some (n - 1) } }) hr
  simp [nextmsgAct, setTs, act_bind, need_some (f := (·.nmsg)) hn, h, hflag]

theorem nextmsgAct_signals (h : Chain s msgs count idx n true) (hmore : 1 < n) :
    nextmsgAct s = .ok .advancedSignalled
      { s with ts := advancedTs s msgs count idx (n - 1) true, doneGen := s.gen } := by
  rw [nextmsgAct_of_more h.nmsg_eq h.restart_eq hmore, if_pos rfl]
  exact advanceSignalAct_ok h.msgs_eq h.count_eq h.idx_eq rfl h.restart_eq h.low

theorem nextmsgAct_merges (h : Chain s msgs count idx n false) (hmore : 1 < n) :
    nextmsgAct s = .ok .advancedMerged
      { s with ts := advancedTs s msgs count idx (n - 1) false } := by
  rw [nextmsgAct_of_more h.nmsg_eq h.restart_eq hmore, if_neg Bool.false_ne_true]
  exact advanceMergedAct_ok h.msgs_eq h.count_eq h.idx_eq rfl h.restart_eq h.low

end Walker

/-! ### The open record (R24, R26) -/

/-- The record is set (R24). -/
def RecordSet (s : State) : Prop :=
  ∃ msgs count idx nmsg written read st, RecordGood s msgs count idx nmsg written read st

/-- The record is set and its restart flag is not stale (R24, R26): what the handler relies on. -/
def RecordSound (s : State) : Prop := RecordSet s ∧ RestartGood s

/-- Where the byte cursors stand in the current message between two bytes (R25). -/
def CursorsIn (m : Message) (w r : Int) : Prop :=
  0 ≤ w ∧ w ≤ m.length ∧ 0 ≤ r ∧ r ≤ m.length ∧ (r = m.length → r = 0)

/-- An open record in PER_TRANSITION, wherever its byte cursors stand: inside RX_LAST the read cursor
is past the last byte until the walker moves on. -/
structure OpenAt (msgs : List Message) (count idx n w r : Int) (s : State) : Prop where
  mode : s.params.restartMode = .perTransition
  msgs_eq : s.ts.msgs = some msgs
  count_eq : s.ts.count = some count
  idx_eq : s.ts.idx = some idx
  nmsg_eq : s.ts.nmsg = some n
  written_eq : s.ts.written = some w
  read_eq : s.ts.read = some r
  status_eq : s.ts.status = some .ok
  restart_eq : s.ts.restart = some (restartValue msgs count idx)
  low : 0 ≤ idx
  pos : 0 < n
  cursor : idx + n = count
  lengths : ∀ i : Nat, (i : Int) < count → 0 ≤ (msgEntry msgs i).length

section OpenRecord
variable {s t : State} {msgs : List Message} {count idx n w r : Int}

theorem restartGood_of_closed (h : s.ts.status ≠ some .ok) : RestartGood s :=
  fun _ _ _ _ _ _ hopen => absurd hopen.2 h

/-- A property that reads the Transfer State and the parameters alone. -/
def ReadsTs (P : State → Prop) : Prop :=
  ∀ s t, t.ts = s.ts → t.params = s.params → P s → P t

theorem readsTs_openAt : ReadsTs (OpenAt msgs count idx n w r) := fun _ _ hts hp h =>
  { h with
    mode := by rw [hp]; exact h.mode
    msgs_eq := by rw [hts]; exact h.msgs_eq
    count_eq := by rw [hts]; exact h.count_eq
    idx_eq := by rw [hts]; exact h.idx_eq
    nmsg_eq := by rw [hts]; exact h.nmsg_eq
    written_eq := by rw [hts]; exact h.written_eq
    read_eq := by rw [hts]; exact h.read_eq
    status_eq := by rw [hts]; exact h.status_eq
    restart_eq := by rw [hts]; exact h.restart_eq }

/-- What is said of a set record is said of the Transfer State. -/
theorem RecordGood.congr {st : Status} (h : RecordGood s msgs count idx n w r st) (hts : t.ts = s.ts) :
    RecordGood t msgs count idx n w r st :=
  { h with
    msgs_eq := by rw [hts]; exact h.msgs_eq
    count_eq := by rw [hts]; exact h.count_eq
    idx_eq := by rw [hts]; exact h.idx_eq
    nmsg_eq := by rw [hts]; exact h.nmsg_eq
    written_eq := by rw [hts]; exact h.written_eq
    read_eq := by rw [hts]; exact h.read_eq
    status_eq := by rw [hts]; exact h.status_eq }

/-- Neither the restart flag nor the frequency cache is part of a set record. -/
theorem RecordSet.of_ts (h : RecordSet s)
    (hts : ∃ flag cache, t.ts = { s.ts with restart := flag, freqCache := cache }) : RecordSet t := by
  obtain ⟨msgs, count, idx, n, w, r, st, h⟩ := h
  obtain ⟨flag, cache, hts⟩ := hts
  exact ⟨msgs, count, idx, n, w, r, st, RecordGood.congr
    (s := { s with ts := { s.ts with restart := flag, freqCache := cache } }) { h with } hts⟩

theorem RestartGood.of_ts (h : RestartGood s)
    (hts : ∃ cache, t.ts = { s.ts with freqCache := cache }) : RestartGood t := by
  obtain ⟨cache, hts⟩ := hts
  simpa only [RestartGood, RecordOpen, hts] using h

theorem readsTs_recordSound : ReadsTs RecordSound := fun s _ hts _ h =>
  ⟨h.1.of_ts ⟨s.ts.restart, s.ts.freqCache, hts⟩, h.2.of_ts ⟨s.ts.freqCache, hts⟩⟩

/-- A status other than OK closes the record (R29). -/
theorem RecordSet.set_status {st : Status} (h : RecordSet s) (hst : st ≠ .ok)
    (hts : t.ts = { s.ts with status := some st }) : RecordSound t := by
  obtain ⟨msgs, count, idx, n, w, r, st', h⟩ := h
  refine ⟨⟨msgs, count, idx, n, w, r, st, RecordGood.congr
    (s := { s with ts := { s.ts with status := some st } }) ?_ hts⟩,
    restartGood_of_closed (by simp [hts, hst])⟩
  exact { h with status_eq := rfl, bytes := fun _ hok => absurd hok hst }

/-- The current message has a length (R91). -/
theorem OpenAt.length_nonneg (h : OpenAt msgs count idx n w r s) :
    0 ≤ (msgEntry msgs idx.toNat).length := by
  have hlow := h.low
  have hpos := h.pos
  have hcur := h.cursor
  exact h.lengths idx.toNat (by omega)

theorem OpenAt.high (h : OpenAt msgs count idx n w r s) : idx < count := by
  have hpos := h.pos
  have hcur := h.cursor
  omega

theorem OpenAt.curMsg_eq (h : OpenAt msgs count idx n w r s) :
    curMsg s = .ok (msgEntry msgs idx.toNat) s :=
  curMsg_ok h.msgs_eq h.count_eq h.idx_eq h.low h.high

theorem OpenAt.chain (h : OpenAt msgs count idx n w r s) :
    Chain s msgs count idx n (restartValue msgs count idx) where
  msgs_eq := h.msgs_eq
  count_eq := h.count_eq
  idx_eq := h.idx_eq
  nmsg_eq := h.nmsg_eq
  restart_eq := h.restart_eq
  low := h.low
  high := h.high
  more hn := by have hcur := h.cursor; omega

/-- An open record with its byte cursors in the message is a sound one. -/
theorem OpenAt.recordSound (h : OpenAt msgs count idx n w r s)
    (hc : CursorsIn (msgEntry msgs idx.toNat) w r) : RecordSound s := by
  refine ⟨⟨msgs, count, idx, n, w, r, .ok, ?_⟩, ?_⟩
  · exact {
      msgs_eq := h.msgs_eq, count_eq := h.count_eq, idx_eq := h.idx_eq, nmsg_eq := h.nmsg_eq
      written_eq := h.written_eq, read_eq := h.read_eq, status_eq := h.status_eq
      idx_low := h.low, idx_high := h.high, nmsg_low := h.pos.le, cursor := fun _ => h.cursor
      lengths := h.lengths, bytes := fun _ _ => hc }
  · intro msgs' count' idx' hm hcnt hi _
    obtain rfl := Option.some.inj (h.msgs_eq.symm.trans hm)
    obtain rfl := Option.some.inj (h.count_eq.symm.trans hcnt)
    obtain rfl := Option.some.inj (h.idx_eq.symm.trans hi)
    exact h.restart_eq

/-- A sound record that is open is at some message, its byte cursors in it. -/
theorem RecordSound.openAt (h : RecordSound s) (hmode : s.params.restartMode = .perTransition)
    (ho : RecordOpen s) :
    ∃ msgs count idx n w r,
      OpenAt msgs count idx n w r s ∧ CursorsIn (msgEntry msgs idx.toNat) w r := by
  obtain ⟨⟨msgs, count, idx, n, w, r, st, hg⟩, hr⟩ := h
  obtain ⟨⟨n', hn', hpos⟩, hst⟩ := ho
  obtain rfl := Option.some.inj (hg.nmsg_eq.symm.trans hn')
  obtain rfl := Option.some.inj (hg.status_eq.symm.trans hst)
  refine ⟨msgs, count, idx, n, w, r, ?_, hg.bytes hpos rfl⟩
  exact {
    mode := hmode, msgs_eq := hg.msgs_eq, count_eq := hg.count_eq, idx_eq := hg.idx_eq
    nmsg_eq := hg.nmsg_eq, written_eq := hg.written_eq, read_eq := hg.read_eq
    status_eq := hg.status_eq, low := hg.idx_low, pos := hpos, cursor := hg.cursor hpos
    lengths := hg.lengths
    restart_eq := hr msgs count idx hg.msgs_eq hg.count_eq hg.idx_eq ⟨⟨n, hg.nmsg_eq, hpos⟩, hst⟩ }

/-- The record after an advance (R161, R162, R163): the next message, from its first byte. -/
theorem OpenAt.advanced (h : OpenAt msgs count idx n w r s) (hmore : 1 < n) {flag : Bool}
    (hts : t.ts = advancedTs s msgs count idx (n - 1) flag) (hp : t.params = s.params) :
    OpenAt msgs count (idx + 1) (n - 1) 0 0 t := by
  have hlow := h.low
  have hcursor := h.cursor
  refine readsTs_openAt { s with ts := advancedTs s msgs count idx (n - 1) flag } t hts hp ?_
  exact { h with
    idx_eq := rfl, nmsg_eq := rfl, written_eq := rfl, read_eq := rfl
    restart_eq := by simp [advancedTs, h.mode]
    low := by omega, pos := by omega, cursor := by omega }

/-- The record after the walker's termination (R164): no message left. -/
theorem OpenAt.terminated (h : OpenAt msgs count idx n w r s) (hlast : n ≤ 1)
    (hts : t.ts = { s.ts with nmsg := some (n - 1) }) : RecordSound t := by
  have hpos := h.pos
  have hn : ¬0 < n - 1 := by omega
  refine ⟨⟨msgs, count, idx, n - 1, w, r, .ok, RecordGood.congr
    (s := { s with ts := { s.ts with nmsg := some (n - 1) } }) ?_ hts⟩, ?_⟩
  · exact {
      msgs_eq := h.msgs_eq, count_eq := h.count_eq, idx_eq := h.idx_eq, nmsg_eq := rfl
      written_eq := h.written_eq, read_eq := h.read_eq, status_eq := h.status_eq
      idx_low := h.low, idx_high := h.high, nmsg_low := by omega
      cursor := fun h0 => absurd h0 hn, lengths := h.lengths, bytes := fun h0 => absurd h0 hn }
  · rintro - - - - - - ⟨⟨k, hk, hkpos⟩, -⟩
    rw [hts] at hk
    obtain rfl := Option.some.inj hk
    exact absurd hkpos hn

end OpenRecord

/-! ### The handler on a sound record (R130 to R146) -/

/-- A handler action that ends with a sound record, or overruns a buffer and leaves a sound record. -/
abbrev EndsSound {α : Type} (P : State → Prop) (a : Act α) : Prop :=
  Holds P a (fun _ => RecordSound) fun e t => e = .bufferOverrun ∧ RecordSound t

section Rules
variable {α β : Type} {P : State → Prop} {E : FaultReason → State → Prop}

/-- A write outside the Transfer State keeps what is said of it. -/
theorem ReadsTs.change (hP : ReadsTs P) {f : State → State} (hts : ∀ s, (f s).ts = s.ts)
    (hp : ∀ s, (f s).params = s.params) : Holds P (change f) (fun _ => P) E :=
  Holds.change fun s hs => hP s _ (hts s) (hp s) hs

theorem ReadsTs.readD (hP : ReadsTs P) : Holds P readD (fun _ => P) E :=
  Holds.readD fun s hs => hP s _ rfl rfl hs

/-- An action that only reads, and is known to answer a value with `V`, goes on with such a value. -/
theorem Holds.reads {V : α → Prop} {Q : β → State → Prop} {a : Act α} {f : α → Act β}
    (ha : ∀ s, P s → ∃ x, V x ∧ a s = .ok x s) (hf : ∀ x, V x → Holds P (f x) Q E) :
    Holds P (a >>= f) Q E := by
  intro s hs
  obtain ⟨x, hx, hax⟩ := ha s hs
  simpa only [act_bind, hax] using hf x hx s hs

/-- The same for a value that is known. -/
theorem Holds.reads_eq {x : α} {Q : β → State → Prop} {a : Act α} {f : α → Act β}
    (ha : ∀ s, P s → a s = .ok x s) (hf : Holds P (f x) Q E) : Holds P (a >>= f) Q E :=
  Holds.reads (V := (· = x)) (fun s hs => ⟨x, rfl, ha s hs⟩) fun _ hx => hx ▸ hf

theorem Holds.of_ok {Q : α → State → Prop} {a : Act α}
    (h : ∀ s, P s → ∃ x t, a s = .ok x t ∧ Q x t) : Holds P a Q E := by
  intro s hs
  obtain ⟨x, t, ha, hq⟩ := h s hs
  rw [ha]
  exact ⟨fun y u hu => by cases hu; exact hq, fun e u hu => by cases hu⟩

/-- A buffer read inside the buffer answers, and anywhere else it overruns (R64). -/
theorem bufRead_holds (m : Message) (i : Int) : Holds P (bufRead m i)
    (fun _ t => inBuffer m i = true ∧ P t) fun e t => e = .bufferOverrun ∧ P t :=
  Holds.ite (fun hin => Holds.look fun _ hs => ⟨hin, hs⟩) fun _ => Holds.raise fun _ hs => ⟨rfl, hs⟩

theorem ReadsTs.bufWrite (hP : ReadsTs P) (m : Message) (i : Int) (v : Byte) :
    Holds P (bufWrite m i v)
      (fun _ t => inBuffer m i = true ∧ P t) fun e t => e = .bufferOverrun ∧ P t :=
  Holds.ite (fun hin => Holds.change fun s hs => ⟨hin, hP s _ rfl rfl hs⟩) fun _ =>
    Holds.raise fun _ hs => ⟨rfl, hs⟩

end Rules

theorem endsSound_pure {α : Type} (x : α) : EndsSound RecordSound (pure x : Act α) :=
  Holds.pure fun _ h => h

/-- STOP writes nothing of the record (R165). -/
theorem endsSound_stopAct : EndsSound RecordSound stopAct :=
  Holds.bind (readsTs_recordSound.change (fun _ => rfl) fun _ => rfl) fun _ =>
    readsTs_recordSound.change (fun _ => rfl) fun _ => rfl

/-- GUARD (R131). -/
theorem endsSound_guardBody : EndsSound RecordSound guardBody :=
  Holds.bind (readsTs_recordSound.change (fun _ => rfl) fun _ => rfl) fun _ =>
    readsTs_recordSound.change (fun _ => rfl) fun _ => rfl

/-- ARBL (R132). -/
theorem endsSound_arblBody : EndsSound RecordSound arblBody :=
  Holds.bind (readsTs_recordSound.change (fun _ => rfl) fun _ => rfl) fun _ =>
    Holds.bind (Holds.change fun _ hs => hs.1.set_status (by decide) rfl) fun _ => endsSound_stopAct

/-- TX_NAK (R134). -/
theorem endsSound_txNakBody : EndsSound RecordSound txNakBody :=
  Holds.bind (Holds.change fun _ hs => hs.1.set_status (by decide) rfl) fun _ => endsSound_stopAct

section Bodies
variable {msgs : List Message} {count idx n w r : Int} {E : FaultReason → State → Prop}

/-- A message at its first byte has its cursors inside. -/
theorem OpenAt.cursorsIn_zero {s : State} (h : OpenAt msgs count idx n w r s) :
    CursorsIn (msgEntry msgs idx.toNat) 0 0 :=
  ⟨le_refl _, h.length_nonneg, le_refl _, h.length_nonneg, fun _ => rfl⟩

/-- NEXTMSG ends an open record or moves on to its next message, at its first byte, with no fault. -/
theorem nextmsgAct_open : Holds (OpenAt msgs count idx n w r) nextmsgAct
    (fun o t => RecordSound t ∧
      (o = .advancedMerged → OpenAt msgs count (idx + 1) (n - 1) 0 0 t)) E := by
  refine Holds.of_ok fun s hs => ?_
  by_cases hmore : 1 < n
  · have hchain := hs.chain
    cases hflag : restartValue msgs count idx with
    | true =>
      rw [hflag] at hchain
      have hnext := hs.advanced hmore (t := { s with
        ts := advancedTs s msgs count idx (n - 1) true, doneGen := s.gen }) rfl rfl
      exact ⟨_, _, nextmsgAct_signals hchain hmore, hnext.recordSound hnext.cursorsIn_zero, nofun⟩
    | false =>
      rw [hflag] at hchain
      have hnext := hs.advanced hmore (t := { s with
        ts := advancedTs s msgs count idx (n - 1) false }) rfl rfl
      exact ⟨_, _, nextmsgAct_merges hchain hmore, hnext.recordSound hnext.cursorsIn_zero,
        fun _ => hnext⟩
  · exact ⟨_, _, nextmsgAct_of_last hs.nmsg_eq (by omega), hs.terminated (by omega) rfl, nofun⟩

/-- A byte sent from inside the buffer moves the write cursor behind it (R135, R137). -/
theorem endsSound_send (m : Message) (hm : m = msgEntry msgs idx.toNat) (hc : CursorsIn m w r)
    (i : Int) :
    EndsSound (OpenAt msgs count idx n w r) (do
      let b ← bufRead m i
      change (writeD b)
      setTs fun ts => { ts with written := some (i + 1) } : Act Unit) := by
  subst hm
  obtain ⟨hw0, hw1, hr⟩ := hc
  refine Holds.bind ((bufRead_holds _ i).weaken (fun _ => id) (fun _ _ => id) fun e t h =>
    ⟨h.1, h.2.recordSound ⟨hw0, hw1, hr⟩⟩) fun b => ?_
  refine Holds.bind (R := fun _ t => inBuffer _ i = true ∧ OpenAt msgs count idx n w r t)
    (Holds.change fun s hs => ⟨hs.1, readsTs_openAt s _ rfl rfl hs.2⟩) fun _ => ?_
  refine Holds.change fun s ⟨hin, hs⟩ => ?_
  have hlt : 0 ≤ i ∧ i < (msgEntry msgs idx.toNat).length := by simpa [inBuffer] using hin
  exact OpenAt.recordSound (w := i + 1) (r := r) { hs with written_eq := rfl } ⟨by omega, by omega, hr⟩

/-- TX_WR_BYTE (R135). -/
theorem endsSound_txWrByteBody (hc : CursorsIn (msgEntry msgs idx.toNat) w r) :
    EndsSound (OpenAt msgs count idx n w r) (txWrByteBody (msgEntry msgs idx.toNat)) :=
  Holds.reads_eq (fun _ hs => need_some hs.written_eq) (endsSound_send _ rfl hc w)

/-- TX_WR_MERGE (R137) on a message at its first byte. -/
theorem endsSound_txWrMergeBody (hc : CursorsIn (msgEntry msgs idx.toNat) w r) :
    EndsSound (OpenAt msgs count idx n w r) txWrMergeBody :=
  Holds.reads_eq (fun _ hs => hs.curMsg_eq) (endsSound_send _ rfl hc 0)

/-- TX_WR_DONE (R136). -/
theorem endsSound_txWrDoneBody : EndsSound (OpenAt msgs count idx n w r) txWrDoneBody := by
  refine Holds.bind nextmsgAct_open fun o => Holds.ite (fun ho => ?_) fun _ => ?_
  · intro s hs
    exact endsSound_txWrMergeBody (hs.2 ho).cursorsIn_zero s (hs.2 ho)
  · exact Holds.pure fun s hs => hs.1

/-- TX_RD_NOACK and TX_RD_ACK (R138, R139): a control command and the dummy read. -/
theorem endsSound_readSetUp (cmd : Layout → Byte) :
    EndsSound RecordSound (do change (command cmd); let _ ← readD : Act Unit) :=
  Holds.bind (readsTs_recordSound.change (fun _ => rfl) fun _ => rfl) fun _ =>
    Holds.bind readsTs_recordSound.readD fun _ => endsSound_pure _

/-- A received byte is stored where the read cursor is inside the buffer, and overruns elsewhere
(R144, R145, R146). -/
theorem consumeByte_open (m : Message) : Holds (OpenAt msgs count idx n w r) (consumeByte m)
    (fun _ t => inBuffer m r = true ∧ OpenAt msgs count idx n w (r + 1) t)
    fun e t => e = .bufferOverrun ∧ OpenAt msgs count idx n w r t := by
  have hdata : Holds (OpenAt msgs count idx n w r) (dataRead m)
      (fun _ t => inBuffer m r = true ∧ OpenAt msgs count idx n w r t)
      fun e t => e = .bufferOverrun ∧ OpenAt msgs count idx n w r t := by
    refine Holds.bind readsTs_openAt.readD fun b => ?_
    refine Holds.reads_eq (fun _ hs => need_some hs.read_eq) ?_
    exact Holds.bind (readsTs_openAt.bufWrite m r b) fun _ => Holds.pure fun _ => id
  refine Holds.bind hdata fun _ => ?_
  refine Holds.reads_eq (fun _ hs => need_some hs.2.read_eq) ?_
  exact Holds.change fun s hs => ⟨hs.1, { hs.2 with read_eq := rfl }⟩

/-- RX_BYTE and RX_PENULT_RESTART (R145, R146): not the last byte. -/
theorem endsSound_consumeByte (hc : CursorsIn (msgEntry msgs idx.toNat) w r)
    (hr : r ≠ (msgEntry msgs idx.toNat).length - 1) :
    EndsSound (OpenAt msgs count idx n w r) (consumeByte (msgEntry msgs idx.toNat)) := by
  refine (consumeByte_open _).weaken (fun _ => id) (fun _ t ⟨hin, h⟩ => h.recordSound ?_)
    fun e t h => ⟨h.1, h.2.recordSound hc⟩
  obtain ⟨hw0, hw1, hr0, hr1, -⟩ := hc
  have hlt : 0 ≤ r ∧ r < (msgEntry msgs idx.toNat).length := by simpa [inBuffer] using hin
  exact ⟨hw0, hw1, by omega, by omega, by omega⟩

/-- RX_LAST (R144): the last byte is stored and the walker moves on. -/
theorem endsSound_rxLastTailBody (hc : CursorsIn (msgEntry msgs idx.toNat) w r) :
    EndsSound (OpenAt msgs count idx n w r) (rxLastTailBody (msgEntry msgs idx.toNat)) := by
  refine Holds.bind ((consumeByte_open _).weaken (fun _ => id) (fun _ _ h => h.2)
    fun e t h => ⟨h.1, h.2.recordSound hc⟩) fun _ => ?_
  exact Holds.bind nextmsgAct_open fun _ => Holds.pure fun _ h => h.1

/-- The transmit-mode branch (R134 to R139). -/
theorem endsSound_txBranch (L : Layout) (st : Byte) (hc : CursorsIn (msgEntry msgs idx.toNat) w r) :
    EndsSound (OpenAt msgs count idx n w r) (txBranch L st (msgEntry msgs idx.toNat)) := by
  have hweak {a : Act Unit} (h : EndsSound RecordSound a) : EndsSound (OpenAt msgs count idx n w r) a :=
    h.weaken (fun _ hs => hs.recordSound hc) (fun _ _ => id) fun _ _ => id
  refine Holds.ite (fun _ => hweak endsSound_txNakBody) fun _ => Holds.ite (fun _ => ?_) fun _ => ?_
  · refine Holds.reads_eq (fun s hs => need_some hs.written_eq) ?_
    exact Holds.ite (fun _ => endsSound_txWrDoneBody) fun _ => endsSound_txWrByteBody hc
  · refine Holds.ite (fun _ => ?_) fun _ => hweak (endsSound_readSetUp cmdRxAckByte)
    refine Holds.reads_eq (fun s hs => need_some hs.restart_eq) ?_
    exact Holds.ite (fun _ => hweak (endsSound_readSetUp cmdRxNoackByte)) fun _ =>
      hweak (endsSound_readSetUp cmdRxAckByte)

/-- The receive-mode branch (R140 to R146): a clear restart flag says that there is a next message, so
that reading it raises nothing (R142). -/
theorem endsSound_rxBranch (hc : CursorsIn (msgEntry msgs idx.toNat) w r) :
    EndsSound (OpenAt msgs count idx n w r) (rxBranch (msgEntry msgs idx.toNat)) := by
  have hcommand (cmd : Layout → Byte) : Holds (OpenAt msgs count idx n w r) (change (command cmd))
      (fun _ => OpenAt msgs count idx n w r) fun e t => e = .bufferOverrun ∧ RecordSound t :=
    readsTs_openAt.change (fun _ => rfl) fun _ => rfl
  refine Holds.reads_eq (fun s hs => need_some hs.read_eq) ?_
  refine Holds.ite (fun _ => ?last) fun hlast => Holds.ite (fun _ => ?penult) fun _ => ?byte
  case last =>
    refine Holds.reads_eq (fun s hs => need_some hs.restart_eq) ?_
    refine Holds.ite (fun _ => Holds.bind (hcommand _) fun _ => endsSound_rxLastTailBody hc)
      fun hmerge => ?_
    refine Holds.reads_eq (fun s hs => need_some hs.idx_eq) ?_
    have hnext : idx + 1 < count := by
      by_contra hno
      exact hmerge (if_neg hno)
    refine Holds.reads_eq (fun s hs =>
      msgAt_ok hs.msgs_eq hs.count_eq (by have := hs.low; omega) hnext) ?_
    exact Holds.ite (fun _ => Holds.bind (hcommand _) fun _ => endsSound_rxLastTailBody hc) fun _ =>
      endsSound_rxLastTailBody hc
  case penult =>
    refine Holds.reads_eq (fun s hs => need_some hs.restart_eq) ?_
    exact Holds.ite (fun _ => Holds.bind (hcommand _) fun _ => endsSound_consumeByte hc hlast)
      fun _ => endsSound_consumeByte hc hlast
  case byte => exact endsSound_consumeByte hc hlast

/-- CLEAR_MODE (R133) on an open record. -/
theorem endsSound_clearMode (st : Byte) (hc : CursorsIn (msgEntry msgs idx.toNat) w r) :
    EndsSound (OpenAt msgs count idx n w r) (clearMode st) := by
  refine Holds.bind (readsTs_openAt.change (fun _ => rfl) fun _ => rfl) fun _ => ?_
  refine Holds.bind (R := fun _ => OpenAt msgs count idx n w r)
    (Holds.readC1 fun s hs => readsTs_openAt s _ rfl rfl hs) fun c => ?_
  refine Holds.reads_eq (fun s hs => hs.curMsg_eq) ?_
  refine Holds.reads (V := fun _ => True) (fun s _ => ⟨_, trivial, rfl⟩) fun L _ => ?_
  exact Holds.ite (fun _ => endsSound_txBranch L st hc) fun _ => endsSound_rxBranch hc

end Bodies

/-- A set record is open or closed, and the guard tells which. -/
theorem RecordSet.guardHolds_eq {s : State} (h : RecordSet s) (hg : s.params.lateGuard = true) :
    (RecordOpen s ∧ guardHolds s = .ok false s) ∨ guardHolds s = .ok true s := by
  obtain ⟨msgs, count, idx, n, w, r, st, h⟩ := h
  by_cases hn : n = 0
  · exact .inr (guardHolds_of_closed hg (.inl (hn ▸ h.nmsg_eq)))
  by_cases hst : st = .ok
  · have hpos : 0 < n := by have := h.nmsg_low; omega
    have hopen : RecordOpen s := ⟨⟨n, h.nmsg_eq, hpos⟩, hst ▸ h.status_eq⟩
    exact .inl ⟨hopen, guardHolds_of_open hopen⟩
  · exact .inr (guardHolds_of_closed hg (.inr ⟨by simp [h.nmsg_eq], st, h.status_eq, hst⟩))

/-- A sound record of a guarded block in PER_TRANSITION, as the handler finds it. -/
structure HandlerReady (s : State) : Prop where
  mode : s.params.restartMode = .perTransition
  guarded : s.params.lateGuard = true
  record : RecordSound s

theorem readsTs_handlerReady : ReadsTs HandlerReady := fun s t hts hp h =>
  ⟨by rw [hp]; exact h.mode, by rw [hp]; exact h.guarded, readsTs_recordSound s t hts hp h.record⟩

/-- The handler keeps the record sound, and the only fault it can raise is a BufferOverrun (R142,
R44). -/
theorem endsSound_isr : EndsSound HandlerReady isr := by
  refine Holds.bind (R := fun _ => HandlerReady)
    (Holds.readS fun s hs => readsTs_handlerReady s _ rfl rfl hs) fun st => ?_
  refine Holds.bind (R := fun closed s => HandlerReady s ∧ (closed = false → RecordOpen s))
    (Holds.of_ok fun s hs => ?_) fun closed => ?_
  · rcases hs.record.1.guardHolds_eq hs.guarded with ⟨hopen, hg⟩ | hg
    · exact ⟨false, s, hg, hs, fun _ => hopen⟩
    · exact ⟨true, s, hg, hs, nofun⟩
  refine Holds.reads (V := fun _ => True) (fun s _ => ⟨_, trivial, rfl⟩) fun L _ => ?_
  have hweak {a : Act Unit} (h : EndsSound RecordSound a) :
      EndsSound (fun s => HandlerReady s ∧ (closed = false → RecordOpen s)) a :=
    h.weaken (fun _ hs => hs.1.record) (fun _ _ => id) fun _ _ => id
  refine Holds.ite (fun _ => hweak endsSound_guardBody) fun hclosed => ?_
  refine Holds.ite (fun _ => hweak endsSound_arblBody) fun _ => ?_
  rintro s ⟨hready, hopen⟩
  obtain ⟨msgs, count, idx, n, w, r, hat, hc⟩ :=
    hready.record.openAt hready.mode (hopen (by simpa using hclosed))
  exact endsSound_clearMode st hc s hat

/-! ### C1.IE and C1.MST (R81, R84) -/

/-- A clear of one bit sets no other. -/
theorem c1Ie_of_clearBitAt {L : Layout} {v : Byte} {k : Nat} (h : c1Ie L (clearBitAt v k) = true) :
    c1Ie L v = true := by
  rw [c1Ie, bitAt, getLsbD_clearBitAt, Bool.and_eq_true] at h
  exact h.1

/-- C1.IE and C1.MST are other bits than C1.EN (R81). -/
theorem layout_wf_ne_en {L : Layout} (h : L.wf = true) : L.ie ≠ L.en ∧ L.mst ≠ L.en := by
  have hnodup := (layout_wf_fields h).2.1
  simp only [List.nodup_cons, List.mem_cons, not_or] at hnodup
  obtain ⟨⟨hie, hmst, -⟩, -⟩ := hnodup
  exact ⟨Ne.symm hie, Ne.symm hmst⟩

/-- CMD_IDLE disables the interrupt (R184). -/
theorem c1Ie_cmdIdleByte {L : Layout} (h : L.wf = true) : c1Ie L (cmdIdleByte L) = false := by
  simp [c1Ie, bitAt, cmdIdleByte, getLsbD_fieldsByte, (layout_wf_ne_en h).1]

theorem c1Mst_cmdIdleByte {L : Layout} (h : L.wf = true) : c1Mst L (cmdIdleByte L) = false := by
  simp [c1Mst, bitAt, cmdIdleByte, getLsbD_fieldsByte, (layout_wf_ne_en h).2]

/-- CMD_IDLE writes 0 to the unused bits (R81). -/
theorem cmdIdleByte_and_c1FieldsByte (L : Layout) :
    cmdIdleByte L &&& c1FieldsByte L = cmdIdleByte L := by
  refine BitVec.eq_of_getLsbD_eq fun i _ => ?_
  rw [BitVec.getLsbD_and, cmdIdleByte, c1FieldsByte, getLsbD_fieldsByte, getLsbD_fieldsByte]
  by_cases hi : i = L.en <;> simp [hi]

/-! ### The holder of the lock and the record -/

theorem holdsLock_of_mayInterrupt {p : Phase} : mayInterrupt p = true → holdsLock p = true := by
  cases p <;> decide

theorem holdsLock_of_recordReady {p : Phase} : recordReady p = true → holdsLock p = true := by
  cases p <;> decide

theorem recordReady_of_stepOpened {p : Phase} : stepOpened p = true → recordReady p = true := by
  cases p <;> decide

theorem recordReady_of_mayInterrupt {p : Phase} : mayInterrupt p = true → recordReady p = true := by
  cases p <;> decide

theorem mayInterrupt_of_stepOpened {p : Phase} : stepOpened p = true → mayInterrupt p = true := by
  cases p <;> decide

/-- C1.IE is set. -/
def InterruptOn (s : State) : Prop := c1Ie s.params.layout s.c1 = true

/-- What `ChainSound` says of the record and of C1.IE, for a thread at label `q` that is the only one to
hold the lock. -/
structure HolderSound (q : Phase) (s : State) : Prop where
  quiet : InterruptOn s → mayInterrupt q = true
  ready : recordReady q = true → RecordSet s
  restart : stepOpened q = true ∨ (recordReady q = true ∧ InterruptOn s) → RestartGood s

/-- The part of `ChainSound` that no step touches: the parameters, the schedule and the faults. -/
structure ChainBase (s : State) : Prop where
  layoutWf : s.params.layout.wf = true
  perTransition : s.params.restartMode = .perTransition
  guarded : s.params.lateGuard = true
  agentsOnly : ∀ x ∈ s.agenda, ∃ m, x = .move m
  noNext : s.faults.noNextMessage = false
  noUnset : s.faults.unsetRead = false

theorem ChainSound.base {s : State} (h : ChainSound s) : ChainBase s :=
  ⟨h.layoutWf, h.perTransition, h.guarded, h.agentsOnly, h.noNext, h.noUnset⟩

theorem ChainBase.congr {s t : State} (h : ChainBase s) (hp : t.params = s.params)
    (ha : t.agenda = s.agenda) (hn : t.faults.noNextMessage = s.faults.noNextMessage)
    (hu : t.faults.unsetRead = s.faults.unsetRead) : ChainBase t where
  layoutWf := by rw [hp]; exact h.layoutWf
  perTransition := by rw [hp]; exact h.perTransition
  guarded := by rw [hp]; exact h.guarded
  agentsOnly := by rw [ha]; exact h.agentsOnly
  noNext := hn.trans h.noNext
  noUnset := hu.trans h.noUnset

/-- `ChainSound` as seen by a thread whose fellows do not hold the lock. -/
theorem ChainSound.holderSound {s : State} (h : ChainSound s) {u : Nat}
    (hothers : ∀ v, v ≠ u → holdsLock (s.caller v).pc = false) : HolderSound (s.caller u).pc s where
  quiet hie := by
    obtain ⟨v, hv⟩ := h.quiet hie
    by_cases hvu : v = u
    · exact hvu ▸ hv
    · exact absurd (holdsLock_of_mayInterrupt hv) (by simp [hothers v hvu])
  ready := h.ready u
  restart := h.restart u

theorem HolderSound.chainSound {t : State} {u : Nat} (h : HolderSound (t.caller u).pc t)
    (hbase : ChainBase t) (hlock : LockExclusive t)
    (hothers : ∀ v, v ≠ u → holdsLock (t.caller v).pc = false) : ChainSound t := by
  have honly {v : Nat} (hv : holdsLock (t.caller v).pc = true) : v = u := by
    by_contra hne
    simp [hothers v hne] at hv
  exact {
    layoutWf := hbase.layoutWf, perTransition := hbase.perTransition, guarded := hbase.guarded
    agentsOnly := hbase.agentsOnly, noNext := hbase.noNext, noUnset := hbase.noUnset, lock := hlock
    quiet := fun hie => ⟨u, h.quiet hie⟩
    ready := fun v hv => h.ready (honly (holdsLock_of_recordReady hv) ▸ hv)
    restart := fun v hv => by
      have hready : recordReady (t.caller v).pc = true :=
        hv.elim recordReady_of_stepOpened And.left
      obtain rfl := honly (holdsLock_of_recordReady hready)
      exact h.restart hv }

/-- Two labels that `ChainSound` does not tell apart. -/
structure SameFlags (p q : Phase) : Prop where
  holds : holdsLock q = holdsLock p
  may : mayInterrupt q = mayInterrupt p
  ready : recordReady q = recordReady p
  opened : stepOpened q = stepOpened p

theorem SameFlags.refl (p : Phase) : SameFlags p p := ⟨rfl, rfl, rfl, rfl⟩

/-- A step that moves no thread over a boundary of the call, sets no C1.IE and keeps the record. -/
theorem ChainSound.of_flags {s t : State} (h : ChainSound s) (hbase : ChainBase t)
    (hlocked : t.locked = s.locked) (hflags : ∀ v, SameFlags (s.caller v).pc (t.caller v).pc)
    (hie : InterruptOn t → InterruptOn s) (hset : RecordSet s → RecordSet t)
    (hrestart : RestartGood s → RestartGood t) : ChainSound t where
  layoutWf := hbase.layoutWf
  perTransition := hbase.perTransition
  guarded := hbase.guarded
  agentsOnly := hbase.agentsOnly
  noNext := hbase.noNext
  noUnset := hbase.noUnset
  lock := h.lock.of_labels hlocked fun v => (hflags v).holds
  quiet hon := by
    obtain ⟨v, hv⟩ := h.quiet (hie hon)
    exact ⟨v, (hflags v).may.trans hv⟩
  ready v hv := hset (h.ready v ((hflags v).ready.symm.trans hv))
  restart v hv := hrestart (h.restart v (hv.imp (fun ho => (hflags v).opened.symm.trans ho)
    fun hr => ⟨(hflags v).ready.symm.trans hr.1, hie hr.2⟩))

/-- The same where the Transfer State is left alone. -/
theorem ChainSound.of_same_ts {s t : State} (h : ChainSound s) (hbase : ChainBase t)
    (hlocked : t.locked = s.locked) (hflags : ∀ v, SameFlags (s.caller v).pc (t.caller v).pc)
    (hie : InterruptOn t → InterruptOn s) (hts : t.ts = s.ts) : ChainSound t :=
  h.of_flags hbase hlocked hflags hie (fun hs => hs.of_ts ⟨s.ts.restart, s.ts.freqCache, hts⟩)
    fun hr => hr.of_ts ⟨s.ts.freqCache, hts⟩

theorem ChainSound.of_agenda {s : State} (h : ChainSound s) {rest : List Slot} {k : Nat}
    (hrest : ∀ y ∈ rest, y ∈ s.agenda) : ChainSound { s with agenda := rest, tick := k } :=
  h.of_same_ts { h.base with agentsOnly := fun x hx => h.agentsOnly x (hrest x hx) } rfl
    (fun _ => .refl _) id rfl

/-! ### The agents' steps keep the chain sound -/

theorem AgentWrites.chainBase {s t : State} (h : AgentWrites s t) (hs : ChainBase s) : ChainBase t :=
  hs.congr h.params h.agenda (by rw [h.faults]) (by rw [h.faults])

theorem AgentWrites.sameFlags {s t : State} (h : AgentWrites s t) (v : Nat) :
    SameFlags (s.caller v).pc (t.caller v).pc := by
  rw [caller_congr h.callers]
  exact .refl _

/-- What the environment leaves alone: the record, and C1 but for a bit that it clears (R229, R230,
R232, R234). -/
def LeavesRecord (s t : State) : Prop :=
  t.ts = s.ts ∧ (t.c1 = s.c1 ∨ ∃ k, t.c1 = clearBitAt s.c1 k)

theorem chainSound_of_environment {s t : State} (h : ChainSound s) (hw : AgentWrites s t)
    (hl : LeavesRecord s t) : ChainSound t := by
  obtain ⟨hts, hc1⟩ := hl
  refine h.of_same_ts (hw.chainBase h.base) hw.locked hw.sameFlags (fun hon => ?_) hts
  rw [InterruptOn, hw.params] at hon
  rcases hc1 with e | ⟨k, e⟩
  · rwa [e] at hon
  · rw [e] at hon
    exact c1Ie_of_clearBitAt hon

theorem txComplete_leavesRecord (o : TxOutcome) (s : State) : LeavesRecord s (txComplete o s) := by
  cases hp : s.pending with
  | txByte b =>
    simp only [txComplete, hp]
    cases o with
    | ack => exact ⟨rfl, .inl rfl⟩
    | nak => exact ⟨rfl, .inl rfl⟩
    | lost => exact ⟨rfl, .inr ⟨_, rfl⟩⟩
  | rxByte _ => rw [txComplete_of_no_txByte (by simp [hp])]; exact ⟨rfl, .inl rfl⟩
  | none => rw [txComplete_of_no_txByte (by simp [hp])]; exact ⟨rfl, .inl rfl⟩

theorem rxComplete_leavesRecord (o : RxOutcome) (s : State) : LeavesRecord s (rxComplete o s) := by
  cases hp : s.pending with
  | rxByte ack =>
    simp only [rxComplete, hp]
    cases o with
    | byte v => exact ⟨rfl, .inl rfl⟩
    | lost => exact ⟨rfl, .inr ⟨_, rfl⟩⟩
  | txByte _ => rw [rxComplete_of_no_rxByte (by simp [hp])]; exact ⟨rfl, .inl rfl⟩
  | none => rw [rxComplete_of_no_rxByte (by simp [hp])]; exact ⟨rfl, .inl rfl⟩

theorem otherMaster_leavesRecord (busy : Bool) (s : State) : LeavesRecord s (otherMaster busy s) := by
  unfold otherMaster
  split <;> exact ⟨rfl, .inl rfl⟩

theorem strayFlags_leavesRecord (iicif arbl rxak clearMst : Bool) (s : State) :
    LeavesRecord s (strayFlags iicif arbl rxak clearMst s) := by
  refine ⟨by rw [strayFlags_frame], ?_⟩
  unfold strayFlags
  split
  · cases clearMst with
    | true => exact .inr ⟨_, rfl⟩
    | false => exact .inl rfl
  · exact .inl rfl

/-- The watchdog sets the status of the open step to TIMEOUT, or leaves the record (R203, R204). -/
theorem expireWatchdog_ts (s : State) : (expireWatchdog s).c1 = s.c1 ∧
    ((expireWatchdog s).ts = s.ts ∨ (expireWatchdog s).ts = { s.ts with status := some .timeout }) := by
  unfold expireWatchdog watchdogHandler
  split
  · split
    · exact ⟨rfl, .inr rfl⟩
    · exact ⟨rfl, .inl rfl⟩
  · exact ⟨rfl, .inl rfl⟩

theorem chainSound_expireWatchdog {s : State} (h : ChainSound s) : ChainSound (expireWatchdog s) := by
  have hw := agentWrites_expireWatchdog s
  obtain ⟨hc1, hts⟩ := expireWatchdog_ts s
  have hie : InterruptOn (expireWatchdog s) → InterruptOn s := by
    rw [InterruptOn, InterruptOn, hw.params, hc1]
    exact id
  rcases hts with hts | hts
  · exact h.of_same_ts (hw.chainBase h.base) hw.locked hw.sameFlags hie hts
  · exact h.of_flags (hw.chainBase h.base) hw.locked hw.sameFlags hie
      (fun hs => (hs.set_status (by decide) hts).1) fun _ => restartGood_of_closed (by simp [hts])

/-- The handler runs only inside a call with a set record and a restart flag that is not stale. -/
theorem ChainSound.handlerReady {s : State} (h : ChainSound s) (hon : InterruptOn s) :
    HandlerReady s := by
  obtain ⟨u, hu⟩ := h.quiet hon
  have hready := recordReady_of_mayInterrupt hu
  exact ⟨h.perTransition, h.guarded, h.ready u hready, h.restart u (.inr ⟨hready, hon⟩)⟩

theorem chainSound_of_handler {s t : State} (h : ChainSound s) (hon : InterruptOn s)
    (hw : AgentWrites s t) (hr : RecordSound t) : ChainSound t :=
  h.of_flags (hw.chainBase h.base) hw.locked hw.sameFlags (fun _ => hon) (fun _ => hr.1) fun _ => hr.2

/-- A BufferOverrun stops the handler and is neither of the faults that are shut out. -/
theorem chainSound_overrun {s : State} (h : ChainSound s) :
    ChainSound (takeFault .handler .bufferOverrun s) :=
  h.of_same_ts (h.base.congr rfl rfl rfl rfl) rfl (fun _ => .refl _) id rfl

theorem chainSound_runAct_isr {s : State} (h : ChainSound s) (hon : InterruptOn s) :
    ChainSound (runAct .handler isr s) := by
  have hkeeps := (handlerStable_agentWrites s).keeps_isr s (.refl s)
  have hends := endsSound_isr s (h.handlerReady hon)
  refine runAct_keeps h (fun t ht => ?_) fun e w hw => ?_
  · exact chainSound_of_handler h hon (hkeeps.1 _ t ht) (hends.1 _ t ht)
  · obtain ⟨rfl, hsound⟩ := hends.2 e w hw
    exact chainSound_overrun (chainSound_of_handler h hon (hkeeps.2 _ w hw) hsound)

/-- A call enters at T_LOCK, which is outside the lock as IDLE is (R171). -/
theorem CallEnters.chainSound {u : Nat} {msgs : List Message} {count : Int} {s t : State}
    (h : CallEnters u msgs count s t) (hs : ChainSound s) : ChainSound t := by
  obtain ⟨hpc, -, -, rfl⟩ := h
  refine hs.of_same_ts (hs.base.congr rfl rfl rfl rfl) rfl (fun v => ?_) id rfl
  by_cases hv : v = u
  · subst hv
    rw [caller_updCaller_same, hpc]
    exact ⟨rfl, rfl, rfl, rfl⟩
  · rw [caller_updCaller_other _ hv]
    exact .refl _

/-! ### The phases keep the chain sound -/

/-- A phase that leaves the record but for the frequency cache, and sets C1.IE only inside a step. -/
theorem HolderSound.mono {p q : Phase} {s w : State} (h : HolderSound p s)
    (hts : ∃ cache, w.ts = { s.ts with freqCache := cache })
    (hie : InterruptOn w → InterruptOn s ∨ stepOpened p = true)
    (hmay : mayInterrupt p = true → mayInterrupt q = true)
    (hready : recordReady q = true → recordReady p = true)
    (hopened : stepOpened q = true → stepOpened p = true) : HolderSound q w where
  quiet hon := hmay ((hie hon).elim h.quiet mayInterrupt_of_stepOpened)
  ready hq := by
    obtain ⟨cache, hts⟩ := hts
    exact (h.ready (hready hq)).of_ts ⟨s.ts.restart, cache, hts⟩
  restart hq := by
    refine RestartGood.of_ts (h.restart ?_) hts
    rcases hq with hq | ⟨hq, hon⟩
    · exact .inl (hopened hq)
    · rcases hie hon with hon | hp
      · exact .inr ⟨hready hq, hon⟩
      · exact .inl hp

/-- T_INIT leaves a set record (R173). -/
theorem recordSet_init {msgs : List Message} {count : Int} {s : State}
    (hok : (callChain msgs count).any unsupported = false) (hpos : 1 ≤ count) :
    RecordSet { s with ts := initTs msgs count s.ts } := by
  have hlengths : ∀ i : Nat, (i : Int) < count → 0 ≤ (msgEntry msgs i).length := by
    intro i hi
    have hmem : msgEntry msgs i ∈ callChain msgs count :=
      List.mem_map.2 ⟨i, List.mem_range.2 (by omega), rfl⟩
    have hsup := List.any_eq_false.1 hok _ hmem
    by_contra hneg
    exact hsup (by simp [unsupported]; omega)
  have h0 := hlengths 0 (by omega)
  exact ⟨msgs, count, 0, count, 0, 0, .ok, {
    msgs_eq := rfl, count_eq := rfl, idx_eq := rfl, nmsg_eq := rfl, written_eq := rfl
    read_eq := rfl, status_eq := rfl, idx_low := le_refl _, idx_high := by omega
    nmsg_low := by omega, cursor := fun _ => by omega, lengths := hlengths
    bytes := fun _ _ => ⟨le_refl _, h0, le_refl _, h0, fun _ => rfl⟩ }⟩

/-- T_STEP leaves a restart flag that is not stale (R178). -/
theorem restartGood_step {s w : State} (h : RecordSet s) {i : Int} {flag : Bool}
    (hi : s.ts.idx = some i) (hr : restartForAct i (opened s) = .ok flag (opened s))
    (hts : w.ts = { s.ts with restart := some flag }) : RestartGood w := by
  obtain ⟨msgs, count, idx, n, wr, rd, st, h⟩ := h
  obtain rfl := Option.some.inj (h.idx_eq.symm.trans hi)
  rw [restartForAct_ok (s := opened s) h.msgs_eq h.count_eq (.inl h.idx_low)] at hr
  cases hr
  intro msgs' count' idx' hm hc hi' _
  rw [hts] at hm hc hi' ⊢
  obtain rfl := Option.some.inj (h.msgs_eq.symm.trans hm)
  obtain rfl := Option.some.inj (h.count_eq.symm.trans hc)
  obtain rfl := Option.some.inj (h.idx_eq.symm.trans hi')
  rfl

theorem programmed_ts (hz : Nat) (s : State) :
    ∃ cache, (programmed hz s).ts = { s.ts with freqCache := cache } := by
  unfold programmed
  split
  · exact ⟨s.ts.freqCache, rfl⟩
  · exact ⟨_, rfl⟩

/-- On a set record T_LOOP's condition reads (R177). -/
theorem loopGoesOn_ok {s : State} {n : Int} {st : Status} (hn : s.ts.nmsg = some n)
    (hst : s.ts.status = some st) : ∃ b, loopGoesOn s = .ok b s := by
  by_cases h : n > 0
  · exact ⟨st == .ok, by
      simp [loopGoesOn, act_bind, act_map, need_some (f := (·.nmsg)) hn, h,
        need_some (f := (·.status)) hst]⟩
  · exact ⟨false, by simp [loopGoesOn, act_bind, act_pure, need_some (f := (·.nmsg)) hn, h]⟩

/-- What a phase leaves for its thread at the next label. -/
theorem PhaseGoes.holderSound {u : Nat} {p q : Phase} {s w : State} (h : PhaseGoes u s p q w)
    (hs : HolderSound p s) (hwf : s.params.layout.wf = true) : HolderSound q w := by
  have hsame : ∃ cache, s.ts = { s.ts with freqCache := cache } := ⟨s.ts.freqCache, rfl⟩
  cases h with
  | lock => exact hs.mono hsame .inl id nofun nofun
  | init hok hpos =>
    have hoff : ¬InterruptOn s := fun hon => nomatch hs.quiet hon
    exact ⟨fun hon => absurd hon hoff, fun _ => recordSet_init hok hpos,
      fun h => h.elim nofun fun h => absurd h.2 hoff⟩
  | freq hm =>
    refine hs.mono (programmed_ts _ s) (fun hon => .inl ?_) nofun (fun _ => rfl) nofun
    rwa [InterruptOn, programmed_frame] at hon
  | clear => exact hs.mono hsame .inl nofun (fun _ => rfl) nofun
  | @loop more _ =>
    cases more with
    | true => exact hs.mono hsame .inl (fun _ => rfl) (fun _ => rfl) nofun
    | false => exact hs.mono hsame .inl (fun _ => rfl) (fun _ => rfl) nofun
  | step hi hr =>
    exact ⟨fun _ => rfl, fun _ => (hs.ready rfl).of_ts ⟨_, _, rfl⟩,
      fun _ => restartGood_step (hs.ready rfl) hi hr rfl⟩
  | acq | test | waitfree =>
    split
    · exact hs.mono hsame .inl id id id
    · exact hs.mono hsame .inl id id id
  | restart | start => exact hs.mono hsame (fun _ => .inr rfl) id id id
  | addr | arm | wait => exact hs.mono hsame .inl id id id
  | cancel => exact hs.mono hsame .inl id id nofun
  | exit =>
    have hoff : ¬InterruptOn (command cmdIdleByte s) := by
      simp [InterruptOn, command, c1Ie_cmdIdleByte hwf]
    exact ⟨fun hon => absurd hon hoff, fun _ => (hs.ready rfl).of_ts ⟨_, _, rfl⟩,
      fun h => h.elim nofun fun h => absurd h.2 hoff⟩
  | result => exact hs.mono hsame .inl id id id
  | unlock => exact hs.mono hsame .inl id nofun nofun

/-- A phase that can raise a fault is T_INIT on an empty chain, or one after the record is set. -/
theorem PhaseRaises.empty_or_ready {u : Nat} {p : Phase} {s w : State} {e : FaultReason}
    (h : PhaseRaises u s p e w) : (e = .emptyChain ∧ w = s) ∨ recordReady p = true := by
  cases h with
  | empty => exact .inl ⟨rfl, rfl⟩
  | freq | loop | stepIdx | step | acq | addr | result => exact .inr rfl

/-- On a set record every read of a phase answers (R44, R142). -/
theorem RecordSet.not_phaseRaises {u : Nat} {p : Phase} {s w : State} {e : FaultReason} (hset : RecordSet s)
    (hp : recordReady p = true) : ¬PhaseRaises u s p e w := by
  obtain ⟨msgs, count, idx, n, wr, rd, st, hg⟩ := hset
  have hlow := hg.idx_low
  have hhigh := hg.idx_high
  have hfirst := msgAt_ok hg.msgs_eq hg.count_eq (le_refl 0) (by omega)
  have hcur := curMsg_ok hg.msgs_eq hg.count_eq hg.idx_eq hlow hhigh
  have hflag := restartForAct_ok (s := opened s) hg.msgs_eq hg.count_eq (.inl hlow)
  obtain ⟨more, hmore⟩ := loopGoesOn_ok hg.nmsg_eq hg.status_eq
  intro h
  cases h with
  | empty => cases hp
  | freq h => cases hfirst.symm.trans h
  | loop h => cases hmore.symm.trans h
  | stepIdx h => cases hg.idx_eq.symm.trans h
  | step hi h =>
    obtain rfl := Option.some.inj (hg.idx_eq.symm.trans hi)
    cases hflag.symm.trans h
  | acq h => cases hcur.symm.trans h
  | addr h => cases hcur.symm.trans h
  | result h => cases hg.status_eq.symm.trans h

theorem PhaseGoes.faults {u : Nat} {p q : Phase} {s w : State} (h : PhaseGoes u s p q w) :
    w.faults = s.faults := by
  cases h with
  | freq => rw [programmed_frame]
  | _ => rfl

theorem PhaseStep.chainSound {u : Nat} {p : Phase} {s t : State} (h : PhaseStep u p s t)
    (hs : ChainSound s) : ChainSound t := by
  cases h with
  | hold => exact hs
  | refuse => exact hs.of_same_ts (hs.base.congr rfl rfl rfl rfl) rfl (fun _ => .refl _) id rfl
  | @go q w hpc hgo =>
    have hfree {v : Nat} (hv : v ≠ u) := hgo.others_free hs.lock hpc hv
    have hholder : HolderSound q w :=
      hgo.holderSound (hpc ▸ hs.holderSound fun v hv => hfree hv) hs.layoutWf
    have hbase : ChainBase w :=
      hs.base.congr hgo.frame.params hgo.frame.agenda (by rw [hgo.faults]) (by rw [hgo.faults])
    refine HolderSound.chainSound (u := u) ?_ (hbase.congr rfl rfl rfl rfl)
      (hgo.lockExclusive hs.lock hpc) fun v hv => ?_
    · rw [caller_goto_same]
      exact hholder.mono ⟨w.ts.freqCache, rfl⟩ .inl id id id
    · rw [caller_goto_other w hv, hgo.frame.others v hv]
      exact hfree hv
  | fault hpc hraise =>
    obtain ⟨rfl, rfl⟩ := hraise.empty_or_ready.resolve_right fun hp =>
      RecordSet.not_phaseRaises (hs.ready u (hpc ▸ hp)) hp hraise
    refine hs.of_same_ts (hs.base.congr rfl rfl rfl rfl) rfl (fun v => ?_) id rfl
    rw [caller_pc_takeFault]
    exact .refl _

/-- A move of an agent keeps the chain sound. -/
theorem chainSound_of_move {m : Move} {s t : State} (hs : ChainSound s)
    (h : runSlot (.move m) s = .next t) : ChainSound t := by
  cases m with
  | thread u =>
    cases hi : phaseInstr u (s.caller u).pc with
    | none => rw [runSlot_move_of_unselected (m := .thread u) hi] at h; cases h; exact hs
    | some i =>
      rw [runSlot_move_of_selected (m := .thread u) hi] at h
      exact (phaseStep_of_phaseRow (phaseRow_of_phaseInstr hi) h).chainSound hs
  | call u ctx msgs count =>
    cases h
    rcases callStep_cases u ctx msgs count s with h | h | h
    · rw [h]; exact hs
    · exact h.chainSound hs
    · rw [h]
      exact hs.of_same_ts (hs.base.congr rfl rfl rfl rfl) rfl (fun _ => .refl _) id rfl
  | resetCall =>
    cases h
    exact hs.of_same_ts (hs.base.congr rfl rfl rfl rfl) rfl (fun _ => .refl _) id rfl
  | irq =>
    by_cases hp : irqPending s.params.layout s.c1 s.status = true
    · rw [show runSlot (.move .irq) s = .next (runAct .handler isr s) from if_pos hp] at h
      cases h
      obtain ⟨-, hie, -⟩ := (irqPending_iff s).1 hp
      exact chainSound_runAct_isr hs hie
    · rw [show runSlot (.move .irq) s = .next s from if_neg hp] at h
      cases h
      exact hs
  | expire => cases h; exact chainSound_expireWatchdog hs
  | txComplete o =>
    cases h
    exact chainSound_of_environment hs (agentWrites_txComplete o s) (txComplete_leavesRecord o s)
  | rxComplete o =>
    cases h
    exact chainSound_of_environment hs (agentWrites_rxComplete o s) (rxComplete_leavesRecord o s)
  | otherMaster busy =>
    cases h
    exact chainSound_of_environment hs (agentWrites_otherMaster busy s)
      (otherMaster_leavesRecord busy s)
  | stray a b c d =>
    cases h
    exact chainSound_of_environment hs (agentWrites_strayFlags a b c d s)
      (strayFlags_leavesRecord a b c d s)

/-! ### Power-on (R44, R261) -/

theorem lockExclusive_atPowerOn (p : Params) : LockExclusive (.atPowerOn p) :=
  lockExclusive_of_others (u := 0) (fun _ _ => rfl) rfl

theorem peripheralSound_atPowerOn {p : Params} (hwf : p.layout.wf = true)
    (hcon : p.unconstrained = false) : PeripheralSound (.atPowerOn p) := by
  have hmst : ¬c1Mst p.layout (cmdIdleByte p.layout) = true := by simp [c1Mst_cmdIdleByte hwf]
  exact ⟨hwf, hcon, fun hp => absurd rfl hp, fun hm => absurd hm hmst,
    cmdIdleByte_and_c1FieldsByte p.layout⟩

theorem chainSound_atPowerOn {p : Params} (hwf : p.layout.wf = true)
    (hmode : p.restartMode = .perTransition) (hguard : p.lateGuard = true) :
    ChainSound (.atPowerOn p) := by
  have hoff : ¬InterruptOn (.atPowerOn p) := by
    simp [InterruptOn, State.atPowerOn, c1Ie_cmdIdleByte hwf]
  refine HolderSound.chainSound (u := 0) ⟨fun hon => absurd hon hoff, nofun, fun h => ?_⟩
    ⟨hwf, hmode, hguard, nofun, rfl, rfl⟩ (lockExclusive_atPowerOn p) fun _ _ => rfl
  exact h.elim nofun fun h => absurd h.2 hoff
end Sys2Proof.Machine

namespace Sys2Proof.Proofs

open Sys2Proof.Machine Sys2Proof.Claims

/-- Settles O11: a phase keeps, takes or releases the lock by itself, and no other step moves a thread
over the lock's boundary. -/
theorem stepKeepsLockExclusive : Obligations.StepKeepsLockExclusive := by
  intro s t hs h
  obtain ⟨rest, k, hstep⟩ := slotStep_of_step h
  exact hstep.lockExclusive hs

/-- Settles O15: only Signal writes `done_gen`, and no step lowers `gen`. -/
theorem stepKeepsGenerationOrder : Obligations.StepKeepsGenerationOrder := by
  intro s t hs h
  obtain ⟨rest, k, hstep⟩ := slotStep_of_step h
  exact hstep.doneGen_le hs

/-- Settles O16: each kind of step grows the marks and traces. -/
theorem stepKeepsTheMarksAndTraces : Obligations.StepKeepsTheMarksAndTraces := by
  intro s t h
  obtain ⟨rest, k, hstep⟩ := slotStep_of_step h
  obtain ⟨hfaults, hrefused, hhandler, hstopped, hbus, hcmds, hreturns, hparams, hout⟩ := hstep.grows
  exact ⟨hfaults, hrefused, hhandler, hstopped, hbus, hcmds, hreturns, hparams, hout⟩

/-- Settles O19: the frame of a phase, read off the cases of what a phase can do. -/
theorem phaseTouchesOnlyItsOwnThread : Obligations.PhaseTouchesOnlyItsOwnThread := by
  intro i u p s t hi h
  have hstep := phaseStep_of_phaseRow hi h
  have hf := hstep.frame
  exact ⟨hf.others, hf.mem, hf.rxLatch, hf.handlerStopped, hf.doneGen, hf.params, hf.agenda, hf.tick,
    hf.out, hstep.ts⟩

/-- Settles O13: the entry taken is a move of an agent, and each move keeps the invariant: the phases by
what they leave for the lock's holder, the handler by its triple on an open record. -/
theorem stepKeepsChainSound : Obligations.StepKeepsChainSound := by
  intro s t hs h
  obtain ⟨x, rest, k, hrun, hx, hrest⟩ := step_takes_entry h
  obtain ⟨m, rfl⟩ : ∃ m, x = .move m := hx.elim (hs.agentsOnly x) id
  exact chainSound_of_move (hs.of_agenda hrest) hrun

/-- Settles O8: at power-on no thread is in a call and C1 is `{EN}`. -/
theorem resetMeetsTheInvariants : Obligations.ResetMeetsTheInvariants := by
  rintro p s rfl hwf
  exact ⟨⟨rfl, rfl⟩, lockExclusive_atPowerOn p, nofun, le_rfl, peripheralSound_atPowerOn hwf,
    chainSound_atPowerOn hwf⟩

end Sys2Proof.Proofs

/-! PROOFS. Caller memory (20_memory.md): settles O9, O14, O17, O58 and O25. First what a row that stores
nothing does to a property of memory alone (`ReadsMem`), then where the receive rows store
(`StoresAtCursor`), then that in a chain with no empty message the handler overruns no buffer
(`NoOverrun`). -/

namespace Sys2Proof.Machine

open Sys2Proof.Claims

/-! ### Actions that store nothing -/

/-- A row of the handler keeps what its body keeps (R88). -/
theorem keeps_branchAct_of_body {P : State → Prop} (b : Branch) (hb : ∀ m, Keeps P (branchBody b m))
    (L : Layout) (v : Vec16) : Keeps P (branchAct L b v) :=
  Holds.ite (fun _ => Holds.bind keeps_curMsg fun m => Holds.bind (keeps_branchCond b m) fun _ =>
    Holds.ite (fun _ => hb m) fun _ => keeps_pure _) fun _ => keeps_pure _

/-- A property that reads caller memory alone. -/
def ReadsMem (P : State → Prop) : Prop := ∀ s t, t.mem = s.mem → P s → P t

theorem readsMem_mem_eq (mem : List Host.Cell) : ReadsMem (·.mem = mem) := fun _ _ ht hs => ht.trans hs

namespace ReadsMem
variable {P : State → Prop} (h : ReadsMem P)
include h

theorem keeps_change {f : State → State} (hf : ∀ s, (f s).mem = s.mem) : Keeps P (change f) :=
  Holds.change fun s hs => h s _ (hf s) hs

theorem keeps_setTs (f : TransferState → TransferState) : Keeps P (setTs f) :=
  h.keeps_change fun _ => rfl

theorem keeps_command (cmd : Layout → Byte) : Keeps P (change (command cmd)) :=
  h.keeps_change fun _ => rfl

theorem keeps_clearCommand (cmd : Layout → Byte) : Keeps P (change (clearCommand cmd)) :=
  h.keeps_change fun _ => rfl

theorem keeps_give (o : OpResult) : Keeps P (give o) := h.keeps_change fun _ => rfl

theorem keeps_readD : Keeps P Machine.readD := Holds.readD fun s hs => h s _ rfl hs

theorem keeps_stopAct : Keeps P stopAct :=
  Holds.bind (h.keeps_command _) fun _ => h.keeps_change fun _ => rfl

theorem keeps_restartRecompute : Keeps P restartRecomputeAct := by
  refine Holds.bind (keeps_look _) fun mode => ?_
  cases mode with
  | perTransition =>
    exact Holds.bind (keeps_need _) fun _ => Holds.bind (keeps_restartForAct _) fun _ =>
      h.keeps_setTs _
  | perStep => exact keeps_pure _

theorem keeps_nextMessage : Keeps P nextMessageAct :=
  Holds.bind (keeps_need _) fun _ => h.keeps_setTs _

theorem keeps_advanceSignal : Keeps P advanceSignalAct :=
  Holds.bind h.keeps_nextMessage fun _ => Holds.bind (h.keeps_change fun _ => rfl) fun _ =>
    Holds.bind h.keeps_restartRecompute fun _ => keeps_pure _

theorem keeps_advanceMerged : Keeps P advanceMergedAct :=
  Holds.bind h.keeps_nextMessage fun _ => Holds.bind h.keeps_restartRecompute fun _ => keeps_pure _

theorem keeps_terminate : Keeps P terminateAct :=
  Holds.bind h.keeps_stopAct fun _ => keeps_pure _

theorem keeps_nextmsg : Keeps P nextmsgAct := by
  refine Holds.bind (keeps_need _) fun _ => Holds.bind (h.keeps_setTs _) fun _ =>
    Holds.ite (fun _ => ?_) fun _ => h.keeps_terminate
  exact Holds.bind (keeps_need _) fun _ =>
    Holds.ite (fun _ => h.keeps_advanceSignal) fun _ => h.keeps_advanceMerged

theorem keeps_guardBody : Keeps P guardBody :=
  Holds.bind (h.keeps_clearCommand _) fun _ => h.keeps_command _

theorem keeps_arblBody : Keeps P arblBody :=
  Holds.bind (h.keeps_clearCommand _) fun _ => Holds.bind (h.keeps_setTs _) fun _ => h.keeps_stopAct

theorem keeps_txNakBody : Keeps P txNakBody :=
  Holds.bind (h.keeps_setTs _) fun _ => h.keeps_stopAct

/-- A byte read from a buffer and sent (R135, R137). -/
theorem keeps_send (m : Message) (i w : Int) : Keeps P (do
    let b ← bufRead m i
    change (writeD b)
    setTs fun ts => { ts with written := some w } : Act Unit) :=
  Holds.bind (keeps_bufRead m i) fun _ => Holds.bind (h.keeps_change fun _ => rfl) fun _ =>
    h.keeps_setTs _

theorem keeps_txWrByteBody (m : Message) : Keeps P (txWrByteBody m) :=
  Holds.bind (keeps_need _) fun w => h.keeps_send m w (w + 1)

theorem keeps_txWrMergeBody : Keeps P txWrMergeBody :=
  Holds.bind keeps_curMsg fun m => h.keeps_send m 0 1

theorem keeps_txWrDoneBody : Keeps P txWrDoneBody :=
  Holds.bind h.keeps_nextmsg fun _ => Holds.ite (fun _ => h.keeps_txWrMergeBody) fun _ => keeps_pure _

/-- TX_RD_NOACK and TX_RD_ACK (R138, R139). -/
theorem keeps_readSetUp (cmd : Layout → Byte) :
    Keeps P (do change (command cmd); let _ ← readD : Act Unit) :=
  Holds.bind (h.keeps_command _) fun _ => Holds.bind h.keeps_readD fun _ => keeps_pure _

/-- The transmit-mode branch stores nothing (R134 to R139). -/
theorem keeps_txBranch (L : Layout) (st : Byte) (m : Message) : Keeps P (txBranch L st m) := by
  refine Holds.ite (fun _ => h.keeps_txNakBody) fun _ => Holds.ite (fun _ => ?write) fun _ => ?read
  case write =>
    exact Holds.bind (keeps_need _) fun _ =>
      Holds.ite (fun _ => h.keeps_txWrDoneBody) fun _ => h.keeps_txWrByteBody m
  case read =>
    refine Holds.ite (fun _ => ?_) fun _ => h.keeps_readSetUp _
    exact Holds.bind (keeps_need _) fun _ =>
      Holds.ite (fun _ => h.keeps_readSetUp _) fun _ => h.keeps_readSetUp _

/-- A handler row that is no storing row stores nothing (R63). -/
theorem exec_handlerRow {i : Instr} (hi : handlerRow i = true) (hq : storingRow i = false) (s : State) :
    ∃ a, Keeps P a ∧ exec i s = .next (runAct .handler a s) := by
  cases i
  case dummyR => exact ⟨_, Holds.bind h.keeps_readD fun _ => h.keeps_give _, rfl⟩
  case isrGuard v =>
    exact ⟨_, Holds.ite (fun _ => Holds.bind keeps_guardHolds fun _ =>
      Holds.ite (fun _ => h.keeps_guardBody) fun _ => keeps_pure _) fun _ => keeps_pure _, rfl⟩
  case isrArbl v => exact ⟨_, Holds.ite (fun _ => h.keeps_arblBody) fun _ => keeps_pure _, rfl⟩
  case isrTxNak v => exact ⟨_, Holds.ite (fun _ => h.keeps_txNakBody) fun _ => keeps_pure _, rfl⟩
  case isrTxWrMerge v =>
    exact ⟨_, Holds.ite (fun _ => h.keeps_txWrMergeBody) fun _ => keeps_pure _, rfl⟩
  case isrTxWrByte v =>
    exact ⟨_, keeps_branchAct_of_body .txWrByte h.keeps_txWrByteBody _ v, rfl⟩
  case isrTxWrDone v =>
    exact ⟨_, keeps_branchAct_of_body .txWrDone (fun _ => h.keeps_txWrDoneBody) _ v, rfl⟩
  case isrTxRdNoack v =>
    exact ⟨_, keeps_branchAct_of_body .txRdNoack (fun _ => h.keeps_readSetUp _) _ v, rfl⟩
  case isrTxRdAck v =>
    exact ⟨_, keeps_branchAct_of_body .txRdAck (fun _ => h.keeps_readSetUp _) _ v, rfl⟩
  case nextmsg => exact ⟨_, Holds.bind h.keeps_nextmsg fun _ => h.keeps_give _, rfl⟩
  case advanceSignal => exact ⟨_, Holds.bind h.keeps_advanceSignal fun _ => h.keeps_give _, rfl⟩
  case advanceMerged => exact ⟨_, Holds.bind h.keeps_advanceMerged fun _ => h.keeps_give _, rfl⟩
  case restartRecompute => exact ⟨_, h.keeps_restartRecompute, rfl⟩
  case terminate => exact ⟨_, Holds.bind h.keeps_terminate fun _ => h.keeps_give _, rfl⟩
  case stop => exact ⟨_, h.keeps_stopAct, rfl⟩
  case dataR | isrRxLastRestart | isrRxLastMerge1 | isrRxLastMerge | isrRxPenultRestart | isrRxByte
    | isrEntry | isrClearMode | isrRxDispatch | isrRxLastTail | irqDeliver => cases hq
  all_goals cases hi

end ReadsMem

/-! ### Rows that store nothing -/

@[simp] theorem takeFault_mem (r : Runner) (e : FaultReason) (s : State) :
    (takeFault r e s).mem = s.mem := by cases r <;> rfl

/-- An agent's step keeps a property of memory that its action keeps. -/
theorem ReadsMem.runAct {P : State → Prop} (h : ReadsMem P) {r : Runner} {a : Act Unit} {s : State}
    (ha : Keeps P a) (hs : P s) : P (runAct r a s) :=
  runAct_of_keeps ha (fun e t ht => h t _ (takeFault_mem r e t) ht) hs

/-- A step of TRANSFER is the step of the phase that the thread is at (R170). -/
theorem phaseStep_transferPhase (u : Nat) (p : Phase) (s : State) :
    PhaseStep u p s (transferPhase u p s) := by
  cases p
  case idle | done => exact .hold
  all_goals exact phaseStep_of_phaseRow (phaseRow_of_phaseInstr rfl) rfl

/-- A step of ACQUIRE is the same at a phase of Bus Acquisition, and no step at any other (R110). -/
theorem phaseStep_acquireStep (u : Nat) (p : Phase) (s : State) :
    PhaseStep u p s (acquireStep u p s) := by
  cases p
  case aTest | aRestart | aWaitfree | aStart | aAddr => exact phaseStep_transferPhase u _ s
  all_goals exact .hold

theorem callStep_mem (u : Nat) (ctx : Context) (msgs : List Message) (count : Int) (s : State) :
    (callStep u ctx msgs count s).mem = s.mem := by
  rcases callStep_cases u ctx msgs count s with h | ⟨-, -, -, h⟩ | h
  · rw [h]
  · rw [h]; rfl
  · rw [h]

theorem programmed_mem (hz : Nat) (s : State) : (programmed hz s).mem = s.mem := by
  rw [programmed_frame]

theorem watchdogHandler_mem (g : Nat) (s : State) : (watchdogHandler g s).mem = s.mem := by
  unfold watchdogHandler
  split <;> rfl

theorem expireWatchdog_mem (s : State) : (expireWatchdog s).mem = s.mem := by
  unfold expireWatchdog
  split
  · exact watchdogHandler_mem _ _
  · rfl

theorem txComplete_mem (o : TxOutcome) (s : State) : (txComplete o s).mem = s.mem := by
  cases hp : s.pending with
  | txByte b => simp only [txComplete, hp]; cases o <;> rfl
  | rxByte _ => rw [txComplete_of_no_txByte (by simp [hp])]
  | none => rw [txComplete_of_no_txByte (by simp [hp])]

theorem rxComplete_mem (o : RxOutcome) (s : State) : (rxComplete o s).mem = s.mem := by
  cases hp : s.pending with
  | rxByte ack => simp only [rxComplete, hp]; cases o <;> rfl
  | txByte _ => rw [rxComplete_of_no_rxByte (by simp [hp])]
  | none => rw [rxComplete_of_no_rxByte (by simp [hp])]

theorem otherMaster_mem (busy : Bool) (s : State) : (otherMaster busy s).mem = s.mem := by
  unfold otherMaster
  split <;> rfl

theorem moveWithoutRow_mem (m : Move) (s : State) : (moveWithoutRow m s).mem = s.mem := by
  cases m
  case stray a b c d => rw [moveWithoutRow, strayFlags_frame]
  all_goals rfl

/-- The rows that are neither a register command nor a row of the handler nor a phase of a thread. -/
def otherRow (i : Instr) : Bool := !(registerRow i || handlerRow i || (phaseRow i).isSome)

theorem exec_mem_of_registerRow {i : Instr} {s t : State} (hi : registerRow i = true)
    (h : exec i s = .next t) : t.mem = s.mem := by
  cases i
  case cmdStart | cmdRestart | cmdRxAck | cmdRxNoack | cmdTx | cmdStop | cmdIdle | clrAll | clrIf
    | addrW | addrR | dataW | freqF | freqFlt | rdS | rdC1 => cases h; rfl
  all_goals cases hi

theorem exec_mem_of_otherRow {i : Instr} {s t : State} (hi : otherRow i = true)
    (hw : ∀ r m k v, i ≠ .bufReadWrite r m k (.write v)) (h : exec i s = .next t) : t.mem = s.mem := by
  have hmem := readsMem_mem_eq s.mem
  cases i
  case transfer u msgs count =>
    by_cases hidle : (s.caller u).pc = .idle
    · rw [exec_transfer_of_idle hidle] at h
      cases h
      exact callStep_mem ..
    · rw [show exec (.transfer u msgs count) s = .next (transferPhase u (s.caller u).pc s) from
        if_neg hidle] at h
      cases h
      exact (phaseStep_transferPhase ..).frame.mem
  case acquire u => cases h; exact (phaseStep_acquireStep ..).frame.mem
  case call => cases h; exact callStep_mem ..
  case setFrequency hz =>
    simp only [exec, execSetFrequency, setFrequencyAct_ok] at h
    cases h
    exact programmed_mem hz s
  case restartFor r k =>
    cases h
    exact hmem.runAct (Holds.bind (keeps_restartForAct k) fun _ => hmem.keeps_give _) rfl
  case msg r k =>
    cases h
    exact hmem.runAct (Holds.bind (keeps_msgAt k) fun _ => hmem.keeps_give _) rfl
  case bufReadWrite r m k op =>
    cases op with
    | write v => exact absurd rfl (hw r m k v)
    | read =>
      cases h
      exact hmem.runAct (Holds.bind (keeps_bufRead m k) fun _ => hmem.keeps_give _) rfl
  case wdtExpire => cases h; exact expireWatchdog_mem s
  case wdtHandler g => cases h; exact watchdogHandler_mem g s
  case envTxComplete o => cases h; exact txComplete_mem o s
  case envRxComplete o => cases h; exact rxComplete_mem o s
  case envOtherMaster busy => cases h; exact otherMaster_mem busy s
  case envDReadTx =>
    simp only [exec, execEnvDReadTx] at h
    split at h <;> cases h <;> rfl
  case reset | signal | wdtArm | wdtCancel | envBusCondition => cases h; rfl
  all_goals cases hi

/-- Every row but the storing rows and a BufWrite leaves caller memory (R63). -/
theorem exec_mem {i : Instr} {s t : State} (hq : storingRow i = false)
    (hw : ∀ r m k v, i ≠ .bufReadWrite r m k (.write v)) (h : exec i s = .next t) : t.mem = s.mem := by
  cases hr : registerRow i with
  | true => exact exec_mem_of_registerRow hr h
  | false =>
    cases hh : handlerRow i with
    | true =>
      have hmem := readsMem_mem_eq s.mem
      obtain ⟨a, ha, hex⟩ := hmem.exec_handlerRow hh hq s
      rw [hex] at h
      cases h
      exact hmem.runAct ha rfl
    | false =>
      cases hp : phaseRow i with
      | some up => exact (phaseStep_of_phaseRow (u := up.1) (p := up.2) hp h).frame.mem
      | none => exact exec_mem_of_otherRow (by simp [otherRow, hr, hh, hp]) hw h


/-! ### Where the receive rows store (R63, R144, R145, R146) -/

/-- Byte `a` is not the one that a receive row may store at from `s`: index `ts.read` of the current
message, inside its buffer. -/
def OffCursor (s : State) (a : Nat) : Prop :=
  ∀ m k, Current s m → s.ts.read = some k → 0 ≤ k → k < m.length → a ≠ bufAddr m k

/-- From `s` to `t` memory changed at most there. -/
def StoredAtCursor (s t : State) : Prop :=
  ∀ a, OffCursor s a → memRead a t.mem = memRead a s.mem

/-- Neither the Transfer State nor memory has changed yet. -/
def Untouched (s t : State) : Prop := t.ts = s.ts ∧ t.mem = s.mem

theorem readsMem_storedAtCursor (s : State) : ReadsMem (StoredAtCursor s) := fun _ _ hmem ht a ha =>
  (congrArg (memRead a) hmem).trans (ht a ha)

theorem Untouched.storedAtCursor {s t : State} (h : Untouched s t) : StoredAtCursor s t := fun a _ =>
  congrArg (memRead a) h.2

/-- The current message is one of the Transfer State alone. -/
theorem Current.congr {s t : State} {m : Message} (h : Current t m) (hts : t.ts = s.ts) :
    Current s m := by
  simpa only [Current, hts] using h

/-- Msg(ts.idx) answers the current message (R24). -/
theorem curMsg_current {P : State → Prop} :
    Holds P curMsg (fun m t => Current t m ∧ P t) fun _ => P := by
  refine Holds.bind (R := fun i t => t.ts.idx = some i ∧ P t)
    (Holds.need (fun _ _ hs hi => ⟨hi, hs⟩) fun _ hs _ => hs) fun i => ?_
  refine Holds.ite (fun _ => Holds.raise fun _ hs => hs.2) fun hlow => ?_
  refine Holds.bind (R := fun count t => t.ts.count = some count ∧ t.ts.idx = some i ∧ P t)
    (Holds.need (fun _ _ hs hc => ⟨hc, hs⟩) fun _ hs _ => hs.2) fun count => ?_
  refine Holds.ite (fun _ => Holds.raise fun _ hs => hs.2.2) fun hhigh => ?_
  refine Holds.bind
    (R := fun msgs t => t.ts.msgs = some msgs ∧ t.ts.count = some count ∧ t.ts.idx = some i ∧ P t)
    (Holds.need (fun _ _ hs hm => ⟨hm, hs⟩) fun _ hs _ => hs.2.2) fun msgs => ?_
  exact Holds.pure fun s ⟨hm, hc, hi, hs⟩ =>
    ⟨⟨msgs, count, i, hm, hc, hi, by omega, by omega, rfl⟩, hs⟩

/-- An action that, with the Transfer State and memory as in `s`, stores at most at the cursor. -/
abbrev StoresAtCursor {α : Type} (s : State) (a : Act α) : Prop :=
  Holds (Untouched s) a (fun _ => StoredAtCursor s) fun _ => StoredAtCursor s

section StoresAtCursor
variable {s : State} {α β : Type}

/-- An action that stores nothing. -/
theorem storesAtCursor_of_keeps {a : Act α} (h : Keeps (StoredAtCursor s) a) : StoresAtCursor s a :=
  h.weaken (fun _ hs => hs.storedAtCursor) (fun _ _ => id) fun _ _ => id

/-- What comes before the store leaves the Transfer State and memory. -/
theorem storesAtCursor_bind {a : Act α} {f : α → Act β} (ha : Keeps (Untouched s) a)
    (hf : ∀ x, StoresAtCursor s (f x)) : StoresAtCursor s (a >>= f) :=
  Holds.bind (R := fun _ => Untouched s)
    (ha.weaken (fun _ => id) (fun _ _ => id) fun _ _ h => h.storedAtCursor) hf

/-- The read of the current message before the store. -/
theorem storesAtCursor_curMsg {f : Message → Act β}
    (hf : ∀ m, Current s m → StoresAtCursor s (f m)) : StoresAtCursor s (curMsg >>= f) := by
  refine Holds.bind (curMsg_current.weaken (fun _ => id) (fun _ _ => id)
    fun _ _ h => h.storedAtCursor) fun m => ?_
  rintro t ⟨hm, ht⟩
  exact hf m (Current.congr hm ht.1) t ht

theorem keeps_untouched_command (cmd : Layout → Byte) : Keeps (Untouched s) (change (command cmd)) :=
  Holds.change fun _ ht => ⟨ht.1, ht.2⟩

theorem keeps_untouched_clearCommand (cmd : Layout → Byte) :
    Keeps (Untouched s) (change (clearCommand cmd)) :=
  Holds.change fun _ ht => ⟨ht.1, ht.2⟩

variable {m : Message} (hm : Current s m)
include hm

/-- DATA_R stores at the cursor, inside the buffer (R87, R64). -/
theorem storesAtCursor_dataRead : StoresAtCursor s (dataRead m) := by
  refine storesAtCursor_bind (Holds.readD fun _ ht => ⟨ht.1, ht.2⟩) fun b => ?_
  refine Holds.bind (R := fun k t => s.ts.read = some k ∧ Untouched s t)
    (Holds.need (fun t k ht hk => ⟨ht.1 ▸ hk, ht⟩) fun _ ht _ => ht.storedAtCursor) fun k => ?_
  refine Holds.bind (R := fun _ => StoredAtCursor s) ?_ fun _ => keeps_pure _
  refine Holds.ite (fun hin => Holds.change fun t ⟨hk, ht⟩ a ha => ?_) fun _ =>
    Holds.raise fun _ ht => ht.2.storedAtCursor
  have hrange : 0 ≤ k ∧ k < m.length := by simpa [inBuffer] using hin
  show memRead a (memWrite (bufAddr m k) b t.mem) = memRead a s.mem
  rw [memRead_memWrite_other (ha m k hm hk hrange.1 hrange.2), ht.2]

theorem storesAtCursor_consumeByte : StoresAtCursor s (consumeByte m) :=
  Holds.bind (storesAtCursor_dataRead hm) fun _ => Holds.bind (keeps_need _) fun _ =>
    (readsMem_storedAtCursor s).keeps_setTs _

theorem storesAtCursor_rxLastTailBody : StoresAtCursor s (rxLastTailBody m) :=
  Holds.bind (storesAtCursor_consumeByte hm) fun _ =>
    Holds.bind (readsMem_storedAtCursor s).keeps_nextmsg fun _ => keeps_pure _

/-- The bodies of the rows: those of the receive rows store at the cursor, the others nothing. -/
theorem storesAtCursor_branchBody (b : Branch) : StoresAtCursor s (branchBody b m) := by
  have hmem := readsMem_storedAtCursor s
  have htail := storesAtCursor_rxLastTailBody hm
  have hbyte := storesAtCursor_consumeByte hm
  cases b
  case guard => exact storesAtCursor_of_keeps hmem.keeps_guardBody
  case arbl => exact storesAtCursor_of_keeps hmem.keeps_arblBody
  case txNak => exact storesAtCursor_of_keeps hmem.keeps_txNakBody
  case txWrByte => exact storesAtCursor_of_keeps (hmem.keeps_txWrByteBody m)
  case txWrDone => exact storesAtCursor_of_keeps hmem.keeps_txWrDoneBody
  case txWrMerge => exact storesAtCursor_of_keeps hmem.keeps_txWrMergeBody
  case txRdNoack | txRdAck => exact storesAtCursor_of_keeps (hmem.keeps_readSetUp _)
  case rxLastRestart | rxLastMerge1 =>
    exact storesAtCursor_bind (keeps_untouched_command _) fun _ => htail
  case rxLastMerge => exact htail
  case rxPenultRestart => exact storesAtCursor_bind (keeps_untouched_command _) fun _ => hbyte
  case rxByte => exact hbyte

/-- The receive-mode branch runs one of the receive rows (R140). -/
theorem storesAtCursor_rxBranch : StoresAtCursor s (rxBranch m) := by
  have hrow := storesAtCursor_branchBody hm
  refine storesAtCursor_bind (keeps_need _) fun _ => Holds.ite (fun _ => ?last) fun _ =>
    Holds.ite (fun _ => ?penult) fun _ => hrow .rxByte
  case last =>
    refine storesAtCursor_bind (keeps_need _) fun _ =>
      Holds.ite (fun _ => hrow .rxLastRestart) fun _ => ?_
    exact storesAtCursor_bind (keeps_need _) fun _ => storesAtCursor_bind (keeps_msgAt _) fun _ =>
      Holds.ite (fun _ => hrow .rxLastMerge1) fun _ => hrow .rxLastMerge
  case penult =>
    exact storesAtCursor_bind (keeps_need _) fun _ =>
      Holds.ite (fun _ => hrow .rxPenultRestart) fun _ => hrow .rxByte

end StoresAtCursor

theorem storesAtCursor_branchAct (s : State) (L : Layout) (b : Branch) (v : Vec16) :
    StoresAtCursor s (branchAct L b v) := by
  have hnothing : StoresAtCursor s (pure () : Act Unit) := storesAtCursor_of_keeps (keeps_pure _)
  refine Holds.ite (fun _ => storesAtCursor_curMsg fun m hm => ?_) fun _ => hnothing
  exact storesAtCursor_bind (keeps_branchCond b m) fun _ =>
    Holds.ite (fun _ => storesAtCursor_branchBody hm b) fun _ => hnothing

theorem storesAtCursor_clearMode (s : State) (st : Byte) : StoresAtCursor s (clearMode st) := by
  refine storesAtCursor_bind (keeps_untouched_clearCommand _) fun _ =>
    storesAtCursor_bind (Holds.readC1 fun _ ht => ⟨ht.1, ht.2⟩) fun c =>
      storesAtCursor_curMsg fun m hm => ?_
  exact storesAtCursor_bind (keeps_look _) fun L => Holds.ite
    (fun _ => storesAtCursor_of_keeps ((readsMem_storedAtCursor s).keeps_txBranch L st m))
    fun _ => storesAtCursor_rxBranch hm

theorem storesAtCursor_isr (s : State) : StoresAtCursor s isr := by
  have hmem := readsMem_storedAtCursor s
  refine storesAtCursor_bind (Holds.readS fun _ ht => ⟨ht.1, ht.2⟩) fun st => ?_
  refine storesAtCursor_bind keeps_guardHolds fun _ => storesAtCursor_bind (keeps_look _) fun _ => ?_
  refine Holds.ite (fun _ => storesAtCursor_of_keeps hmem.keeps_guardBody) fun _ => ?_
  exact Holds.ite (fun _ => storesAtCursor_of_keeps hmem.keeps_arblBody) fun _ =>
    storesAtCursor_clearMode s st

/-- Every storing row is one step of the handler that stores at the cursor. -/
theorem exec_storingRow {i : Instr} (hi : storingRow i = true) (s : State) :
    ∃ a, StoresAtCursor s a ∧ exec i s = .next (runAct .handler a s) := by
  have hmem := readsMem_storedAtCursor s
  cases i
  case dataR =>
    exact ⟨_, storesAtCursor_curMsg fun m hm => Holds.bind (storesAtCursor_dataRead hm) fun _ =>
      hmem.keeps_give _, rfl⟩
  case isrRxLastRestart | isrRxLastMerge1 | isrRxLastMerge | isrRxPenultRestart | isrRxByte =>
    exact ⟨_, storesAtCursor_branchAct s _ _ _, rfl⟩
  case isrRxLastTail => exact ⟨_, storesAtCursor_curMsg fun m hm => storesAtCursor_rxLastTailBody hm, rfl⟩
  case isrRxDispatch => exact ⟨_, storesAtCursor_curMsg fun m hm => storesAtCursor_rxBranch hm, rfl⟩
  case isrClearMode st => exact ⟨_, storesAtCursor_clearMode s st, rfl⟩
  case isrEntry => exact ⟨_, storesAtCursor_isr s, rfl⟩
  case irqDeliver =>
    by_cases hp : irqPending s.params.layout s.c1 s.status = true
    · exact ⟨isr, storesAtCursor_isr s, if_pos hp⟩
    · exact ⟨pure (), storesAtCursor_of_keeps (keeps_pure _),
        by simp [exec, execIrqDeliver, hp, runAct, act_pure]⟩
  all_goals cases hi

theorem storedAtCursor_of_storingRow {i : Instr} {s t : State} (hi : storingRow i = true)
    (h : exec i s = .next t) : StoredAtCursor s t := by
  obtain ⟨a, ha, hex⟩ := exec_storingRow hi s
  have hs : Untouched s s := ⟨rfl, rfl⟩
  rw [hex] at h
  cases h
  exact runAct_keeps hs.storedAtCursor (fun t ht => (ha s hs).1 _ t ht) fun e w hw =>
    readsMem_storedAtCursor s w _ (takeFault_mem ..) ((ha s hs).2 e w hw)

/-! ### Transmit mode (R133) -/

/-- C1.TX is set and memory is `mem`. -/
def Transmits (mem : List Host.Cell) (s : State) : Prop :=
  s.mem = mem ∧ c1Tx s.params.layout s.c1 = true

/-- An action that, started in transmit mode, stores nothing. -/
abbrev StoresNothing {α : Type} (mem : List Host.Cell) (a : Act α) : Prop :=
  Holds (Transmits mem) a (fun _ => (·.mem = mem)) fun _ => (·.mem = mem)

theorem storesNothing_of_keeps {α : Type} {mem : List Host.Cell} {a : Act α}
    (h : Keeps (·.mem = mem) a) : StoresNothing mem a :=
  h.weaken (fun _ hs => hs.1) (fun _ _ => id) fun _ _ => id

/-- The mode is read after the flag is cleared, which leaves C1 (R133). -/
theorem storesNothing_clearMode (mem : List Host.Cell) (st : Byte) :
    StoresNothing mem (clearMode st) := by
  refine Holds.bind (R := fun _ => Transmits mem) (Holds.change fun _ hs => ⟨hs.1, hs.2⟩) fun _ => ?_
  refine Holds.bind (R := fun c t => t.mem = mem ∧ c1Tx t.params.layout c = true)
    (Holds.readC1 fun _ hs => ⟨hs.1, hs.2⟩) fun c => ?_
  refine Holds.bind (keeps_curMsg.weaken (fun _ => id) (fun _ _ => id) fun _ _ h => h.1) fun m => ?_
  refine Holds.bind (R := fun L t => t.mem = mem ∧ c1Tx L c = true)
    (Holds.look fun _ hs => hs) fun L => ?_
  refine Holds.ite (fun _ => ?_) fun hrx => ?_
  · exact ((readsMem_mem_eq mem).keeps_txBranch L st m).weaken (fun _ hs => hs.1) (fun _ _ => id)
      fun _ _ => id
  · rintro s ⟨-, htx⟩
    exact absurd htx hrx

theorem storesNothing_isr (mem : List Host.Cell) : StoresNothing mem isr := by
  have hmem := readsMem_mem_eq mem
  have hread {α : Type} {a : Act α} (h : Keeps (Transmits mem) a) :
      Holds (Transmits mem) a (fun _ => Transmits mem) fun _ => (·.mem = mem) :=
    h.weaken (fun _ => id) (fun _ _ => id) fun _ _ ht => ht.1
  refine Holds.bind (R := fun _ => Transmits mem) (Holds.readS fun _ hs => ⟨hs.1, hs.2⟩) fun st => ?_
  refine Holds.bind (hread keeps_guardHolds) fun _ => Holds.bind (hread (keeps_look _)) fun _ => ?_
  refine Holds.ite (fun _ => storesNothing_of_keeps hmem.keeps_guardBody) fun _ => ?_
  exact Holds.ite (fun _ => storesNothing_of_keeps hmem.keeps_arblBody) fun _ =>
    storesNothing_clearMode mem st

theorem StoresNothing.runAct_mem {a : Act Unit} {s : State} (ha : StoresNothing s.mem a)
    (htx : c1Tx s.params.layout s.c1 = true) : (runAct .handler a s).mem = s.mem :=
  runAct_keeps (P := (·.mem = s.mem)) rfl (fun t ht => (ha s ⟨rfl, htx⟩).1 _ t ht) fun e w hw =>
    (ha s ⟨rfl, htx⟩).2 e w hw

/-- A pending interrupt runs the handler (R227). -/
theorem exec_irqDeliver_of_pending {s : State} (h : IrqPending s) :
    exec .irqDeliver s = .next (runAct .handler isr s) := if_pos ((irqPending_iff s).2 h)

/-- The rows that read the mode store nothing in transmit mode. -/
theorem exec_mem_of_transmit {i : Instr} {s t : State}
    (hi : (∃ st, i = .isrClearMode st) ∨ i = .isrEntry ∨ i = .irqDeliver)
    (htx : c1Tx s.params.layout s.c1 = true) (h : exec i s = .next t) : t.mem = s.mem := by
  rcases hi with ⟨st, rfl⟩ | rfl | rfl
  · cases h
    exact (storesNothing_clearMode s.mem st).runAct_mem htx
  · cases h
    exact (storesNothing_isr s.mem).runAct_mem htx
  · by_cases hp : IrqPending s
    · rw [exec_irqDeliver_of_pending hp] at h
      cases h
      exact (storesNothing_isr s.mem).runAct_mem htx
    · rw [exec_irqDeliver_of_not_pending hp] at h
      cases h
      rfl

/-! ### The primitives (R64, R65) -/

theorem inBuffer_iff {m : Message} {i : Int} : inBuffer m i = true ↔ 0 ≤ i ∧ i < m.length := by
  simp [inBuffer]

/-- Outside its range a primitive raises BufferOverrun and does nothing else (R64). -/
theorem bufAct_out {m : Message} {i : Int} {op : BufOp} {s : State} (h : inBuffer m i = false) :
    bufAct m i op s = .error .bufferOverrun s := by
  cases op with
  | read => simp [bufAct, act_bind, bufRead_out h]
  | write v => exact bufWrite_out h

section BufReadWrite
variable {r : Runner} {m : Message} {i : Int} {s : State}

theorem exec_bufRead_in (hr : stoppedBy r s = false) (hin : inBuffer m i = true) :
    exec (.bufReadWrite r m i .read) s =
      .next { s with out := .byte (memRead (bufAddr m i) s.mem) } :=
  congrArg Host.Outcome.next (runAct_ok hr (by simp [bufAct, act_bind, give, bufRead_in hin]))

theorem exec_bufWrite_in (hr : stoppedBy r s = false) (hin : inBuffer m i = true) (v : Byte) :
    exec (.bufReadWrite r m i (.write v)) s =
      .next { s with mem := memWrite (bufAddr m i) v s.mem } :=
  congrArg Host.Outcome.next (runAct_ok hr (bufWrite_in hin))

theorem exec_bufReadWrite_out (hr : stoppedBy r s = false) (hin : inBuffer m i = false) (op : BufOp) :
    exec (.bufReadWrite r m i op) s = .next (takeFault r .bufferOverrun s) :=
  congrArg Host.Outcome.next (runAct_error hr (bufAct_out hin))

/-- A BufWrite changes no byte but its own, and none where it is outside the buffer (R64). -/
theorem memRead_of_bufWrite {v : Byte} {t : State}
    (h : exec (.bufReadWrite r m i (.write v)) s = .next t) {a : Nat}
    (ha : 0 ≤ i → i < m.length → a ≠ bufAddr m i) : memRead a t.mem = memRead a s.mem := by
  cases hr : stoppedBy r s with
  | true => cases h; rw [runAct_stopped hr]
  | false =>
    cases hin : inBuffer m i with
    | true =>
      rw [exec_bufWrite_in hr hin] at h
      cases h
      obtain ⟨hlow, hhigh⟩ := inBuffer_iff.1 hin
      exact memRead_memWrite_other (ha hlow hhigh) ..
    | false =>
      rw [exec_bufReadWrite_out hr hin] at h
      cases h
      rw [takeFault_mem]

end BufReadWrite

/-- Msg(i) at the end of the chain or beyond it; at 0 the chain is empty (R65). -/
theorem msgAt_past {s : State} {count i : Int} (hc : s.ts.count = some count) (h0 : 0 ≤ i)
    (hi : count ≤ i) : msgAt i s = .error (if i = 0 then .emptyChain else .noNextMessage) s := by
  simp [msgAt, not_lt.2 h0, hi, act_bind, need_some (f := (·.count)) hc]

/-- Msg(i) with an unset count (R44). -/
theorem msgAt_unset_count {s : State} {i : Int} (hc : s.ts.count = none) (h0 : 0 ≤ i) :
    msgAt i s = .error .unsetRead s := by
  simp [msgAt, not_lt.2 h0, act_bind, need_none (f := (·.count)) hc]

/-- Msg(i) with an unset message list (R44). -/
theorem msgAt_unset_msgs {s : State} {count i : Int} (hm : s.ts.msgs = none)
    (hc : s.ts.count = some count) (h0 : 0 ≤ i) (hi : i < count) :
    msgAt i s = .error .unsetRead s := by
  simp [msgAt, not_lt.2 h0, not_le.2 hi, act_bind, act_map, need_some (f := (·.count)) hc,
    need_none (f := (·.msgs)) hm]

/-- MSG shows the descriptor that Msg(i) answers. -/
theorem exec_msg_of_ok {r : Runner} {i : Int} {m : Message} {s : State} (hr : stoppedBy r s = false)
    (h : msgAt i s = .ok m s) : exec (.msg r i) s = .next { s with out := .message m } :=
  congrArg Host.Outcome.next (runAct_ok hr (by simp [act_bind, give, h]))

theorem exec_msg_of_error {r : Runner} {i : Int} {e : FaultReason} {s : State}
    (hr : stoppedBy r s = false) (h : msgAt i s = .error e s) :
    exec (.msg r i) s = .next (takeFault r e s) :=
  congrArg Host.Outcome.next (runAct_error hr (by simp [act_bind, h]))

/-! ### The canonical form (log entries 3 and 11) -/

/-- The callers are in canonical form. -/
def CallersCanonical (s : State) : Prop :=
  cellsWfFrom (fun c => c != Caller.atReset) 0 s.callers = true

theorem handlerStable_memory_wf : HandlerStable (fun s => Memory.wf s.mem = true) where
  ts _ _ := id
  signal _ := id
  writeC1 _ _ := id
  writeS _ _ := id
  writeD _ _ := id
  readC1 _ := id
  readS _ := id
  readD _ := id
  store a v _ := Memory_wf_memWrite a v

theorem handlerRow_of_storingRow {i : Instr} (h : storingRow i = true) : handlerRow i = true := by
  cases i <;> cases h <;> rfl

/-- Every row keeps memory canonical: a store goes through MemWrite, and the other rows leave it. -/
theorem exec_memory_wf {i : Instr} {s t : State} (hs : Memory.wf s.mem = true)
    (h : exec i s = .next t) : Memory.wf t.mem = true := by
  have hstable := handlerStable_memory_wf
  have hfault (r : Runner) (e : FaultReason) (w : State) (hw : Memory.wf w.mem = true) :
      Memory.wf (takeFault r e w).mem = true := by rwa [takeFault_mem]
  by_cases hstore : storingRow i = true
  · obtain ⟨a, ha, hex⟩ := hstable.exec_handlerRow (fun _ _ => id) (handlerRow_of_storingRow hstore) s
    rw [hex] at h
    cases h
    exact runAct_of_keeps ha (hfault .handler) hs
  by_cases hwrite : ∃ r m k v, i = .bufReadWrite r m k (.write v)
  · obtain ⟨r, m, k, v, rfl⟩ := hwrite
    cases h
    exact runAct_of_keeps (hstable.keeps_bufWrite m k v) (hfault r) hs
  · rw [exec_mem (by simpa using hstore) (fun r m k v hi => hwrite ⟨r, m, k, v, hi⟩) h]
    exact hs

/-- An entry of the schedule runs a row, or makes a move that selects none. -/
theorem runSlot_cases {x : Slot} {s t : State} (h : runSlot x s = .next t) :
    (∃ i, exec i s = .next t) ∨ ∃ m, t = moveWithoutRow m s := by
  cases x with
  | word nbits w =>
    cases hd : decodeWord s.params.layout nbits w with
    | none => rw [runSlot_word_of_undecodable hd] at h; cases h
    | some i => exact .inl ⟨i, runSlot_word_of_decoded hd ▸ h⟩
  | move m =>
    cases hi : selectMove m s with
    | none => rw [runSlot_move_of_unselected hi] at h; cases h; exact .inr ⟨m, rfl⟩
    | some i => exact .inl ⟨i, runSlot_move_of_selected hi ▸ h⟩

theorem runSlot_memory_wf {x : Slot} {s t : State} (hs : Memory.wf s.mem = true)
    (h : runSlot x s = .next t) : Memory.wf t.mem = true := by
  rcases runSlot_cases h with ⟨i, hi⟩ | ⟨m, rfl⟩
  · exact exec_memory_wf hs hi
  · rwa [moveWithoutRow_mem]

/-- What a phase writes of the callers is its own thread's record (R33). -/
theorem PhaseGoes.callersCanonical {u : Nat} {s w : State} {p q : Phase} (h : PhaseGoes u s p q w)
    (hs : CallersCanonical s) : CallersCanonical w := by
  cases h with
  | freq => rw [programmed_frame]; exact hs
  | test => exact callers_wf_updCaller { s with cmds := s.cmds ++ [.read .c1 s.c1] } u _ hs
  | result => exact callers_wf_updCaller s u _ hs
  | _ => exact hs

theorem PhaseStep.callersCanonical {u : Nat} {s t : State} {p : Phase} (h : PhaseStep u p s t)
    (hs : CallersCanonical s) : CallersCanonical t := by
  cases h with
  | hold => exact hs
  | refuse => exact hs
  | @go q w _ hgo => exact callers_wf_updCaller w u _ (hgo.callersCanonical hs)
  | @fault e w _ hraise =>
    have hw : CallersCanonical w := by rcases hraise.eq_or_opened with rfl | rfl <;> exact hs
    exact callers_wf_updCaller { w with faults := w.faults.add e } u _ hw

theorem SlotStep.callersCanonical {s t : State} (h : SlotStep s t) (hs : CallersCanonical s) :
    CallersCanonical t := by
  have hwrites {w : State} (hw : AgentWrites s w) : CallersCanonical w := by
    rwa [CallersCanonical, hw.callers]
  cases h with
  | agent h =>
    rcases h with hw | ⟨e, w, hw, rfl⟩
    · exact hwrites hw
    · exact hwrites (w := w) hw
  | phase _ h => exact h.callersCanonical hs
  | call h =>
    obtain ⟨-, -, -, rfl⟩ := h
    exact callers_wf_updCaller s _ _ hs
  | refused => exact hs

/-! ### BufferOverrun (R64, R91) -/

/-- An action that raises no BufferOverrun. -/
abbrev NoOverrun {α : Type} (P : State → Prop) (a : Act α) : Prop :=
  Holds P a (fun _ _ => True) fun e _ => e ≠ .bufferOverrun

/-- No message of the chain is empty. -/
def NoEmptyMessage (msgs : List Message) (count : Int) : Prop :=
  ∀ i : Nat, (i : Int) < count → (msgEntry msgs i).length ≠ 0

/-- In a message that is not empty, the read cursor of an open record is inside the buffer (R25). -/
theorem CursorsIn.read_inBuffer {m : Message} {w r : Int} (h : CursorsIn m w r) (hm : m.length ≠ 0) :
    inBuffer m r = true := by
  obtain ⟨-, -, hlow, hhigh, hzero⟩ := h
  exact inBuffer_iff.2 ⟨hlow, lt_of_le_of_ne hhigh fun he => hm (he ▸ hzero he)⟩

/-- So is the write cursor of a message that is not finished. -/
theorem CursorsIn.written_inBuffer {m : Message} {w r : Int} (h : CursorsIn m w r)
    (hm : w ≠ m.length) : inBuffer m w = true := by
  obtain ⟨hlow, hhigh, -⟩ := h
  exact inBuffer_iff.2 ⟨hlow, lt_of_le_of_ne hhigh hm⟩

section NoOverrun
variable {P : State → Prop} {α : Type}

theorem noOverrun_of_ok {a : Act α} (h : ∀ s, P s → ∃ x t, a s = .ok x t) : NoOverrun P a :=
  Holds.of_ok fun s hs => (h s hs).imp fun _ h => h.imp fun _ h => ⟨h, trivial⟩

/-- A read of the Transfer State raises UnsetRead if anything (R44). -/
theorem noOverrun_need {f : TransferState → Option α} :
    Holds P (need f) (fun _ => P) fun e _ => e ≠ .bufferOverrun :=
  Holds.need (fun _ _ hs _ => hs) fun _ _ _ => nofun

/-- Msg(i) raises no BufferOverrun (R65). -/
theorem noOverrun_msgAt (i : Int) :
    Holds P (msgAt i) (fun _ => P) fun e _ => e ≠ .bufferOverrun := by
  refine Holds.ite (fun _ => Holds.raise fun _ _ => nofun) fun _ => Holds.bind noOverrun_need fun _ => ?_
  refine Holds.ite (fun _ => Holds.raise fun _ _ => ?_) fun _ =>
    Holds.bind noOverrun_need fun _ => Holds.pure fun _ => id
  split <;> exact nofun

end NoOverrun

section Full
variable {msgs : List Message} {count idx n w r : Int}

theorem OpenAt.length_ne_zero {s : State} (h : OpenAt msgs count idx n w r s)
    (hfull : NoEmptyMessage msgs count) : (msgEntry msgs idx.toNat).length ≠ 0 := by
  have hlow := h.low
  have hhigh := h.high
  exact hfull idx.toNat (by omega)

/-- A byte read from inside the buffer is sent (R135). -/
theorem txWrByteBody_ok {s : State} {m : Message} (hw : s.ts.written = some w)
    (hin : inBuffer m w = true) : txWrByteBody m s = .ok ()
      { writeD (memRead (bufAddr m w) s.mem) s with ts := { s.ts with written := some (w + 1) } } := by
  simp [txWrByteBody, setTs, act_bind, need_some (f := (·.written)) hw, bufRead_in hin]

/-- The first byte of a message that is not empty is sent (R137). -/
theorem txWrMergeBody_ok {s : State} {m : Message} (hm : curMsg s = .ok m s)
    (hin : inBuffer m 0 = true) : txWrMergeBody s = .ok ()
      { writeD (memRead (bufAddr m 0) s.mem) s with ts := { s.ts with written := some 1 } } := by
  simp [txWrMergeBody, setTs, act_bind, hm, bufRead_in hin]

/-- A byte received inside the buffer is stored, and the read cursor moves on (R144, R145, R146). -/
theorem consumeByte_ok {s : State} {m : Message} (hr : s.ts.read = some r)
    (hin : inBuffer m r = true) : ∃ t, consumeByte m s = .ok () t := by
  simp [consumeByte, dataRead, readD, setTs, act_bind, act_map, need, hr, bufWrite_in hin]

theorem noOverrun_consumeByte {m : Message} (hin : inBuffer m r = true) :
    Holds (OpenAt msgs count idx n w r) (consumeByte m)
      (fun _ => OpenAt msgs count idx n w (r + 1)) fun e _ => e ≠ .bufferOverrun := by
  refine Holds.of_ok fun s hs => ?_
  obtain ⟨t, ht⟩ := consumeByte_ok hs.read_eq hin
  exact ⟨(), t, ht, ((consumeByte_open m s hs).1 _ t ht).2⟩

theorem noOverrun_rxLastTailBody {m : Message} (hin : inBuffer m r = true) :
    NoOverrun (OpenAt msgs count idx n w r) (rxLastTailBody m) :=
  Holds.bind (noOverrun_consumeByte hin) fun _ => Holds.bind nextmsgAct_open fun _ =>
    Holds.pure fun _ _ => trivial

/-- TX_WR_DONE (R136): the message that merges is not empty. -/
theorem noOverrun_txWrDoneBody (hfull : NoEmptyMessage msgs count) :
    NoOverrun (OpenAt msgs count idx n w r) txWrDoneBody := by
  refine Holds.bind nextmsgAct_open fun o => Holds.ite (fun ho => ?_) fun _ => ?_
  · refine noOverrun_of_ok fun s hs => ?_
    have hnext := hs.2 ho
    exact ⟨_, _, txWrMergeBody_ok hnext.curMsg_eq
      (hnext.cursorsIn_zero.read_inBuffer (hnext.length_ne_zero hfull))⟩
  · exact Holds.pure fun _ _ => trivial

theorem noOverrun_txBranch (L : Layout) (st : Byte) (hfull : NoEmptyMessage msgs count)
    (hc : CursorsIn (msgEntry msgs idx.toNat) w r) :
    NoOverrun (OpenAt msgs count idx n w r) (txBranch L st (msgEntry msgs idx.toNat)) := by
  have hsetUp (cmd : Layout → Byte) : NoOverrun (OpenAt msgs count idx n w r)
      (do change (command cmd); let _ ← readD : Act Unit) := noOverrun_of_ok fun _ _ => ⟨_, _, rfl⟩
  refine Holds.ite (fun _ => noOverrun_of_ok fun _ _ => ⟨_, _, rfl⟩) fun _ =>
    Holds.ite (fun _ => ?write) fun _ => ?read
  case write =>
    refine Holds.reads_eq (fun s hs => need_some hs.written_eq) ?_
    refine Holds.ite (fun _ => noOverrun_txWrDoneBody hfull) fun hw => noOverrun_of_ok fun s hs => ?_
    exact ⟨_, _, txWrByteBody_ok hs.written_eq (hc.written_inBuffer hw)⟩
  case read =>
    refine Holds.ite (fun _ => ?_) fun _ => hsetUp cmdRxAckByte
    exact Holds.bind noOverrun_need fun _ =>
      Holds.ite (fun _ => hsetUp cmdRxNoackByte) fun _ => hsetUp cmdRxAckByte

theorem noOverrun_rxBranch {m : Message} (hin : inBuffer m r = true) :
    NoOverrun (OpenAt msgs count idx n w r) (rxBranch m) := by
  have hbyte : NoOverrun (OpenAt msgs count idx n w r) (consumeByte m) :=
    (noOverrun_consumeByte hin).weaken (fun _ => id) (fun _ _ _ => trivial) fun _ _ => id
  have htail := noOverrun_rxLastTailBody (msgs := msgs) (count := count) (idx := idx) (n := n)
    (w := w) hin
  have hcommand {a : Act Unit} (cmd : Layout → Byte) (ha : NoOverrun (OpenAt msgs count idx n w r) a) :
      NoOverrun (OpenAt msgs count idx n w r) (do change (command cmd); a) :=
    Holds.bind (readsTs_openAt.change (fun _ => rfl) fun _ => rfl) fun _ => ha
  refine Holds.reads_eq (fun s hs => need_some hs.read_eq) ?_
  refine Holds.ite (fun _ => ?last) fun _ => Holds.ite (fun _ => ?penult) fun _ => hbyte
  case last =>
    refine Holds.bind noOverrun_need fun _ => Holds.ite (fun _ => hcommand _ htail) fun _ => ?_
    exact Holds.bind noOverrun_need fun _ => Holds.bind (noOverrun_msgAt _) fun _ =>
      Holds.ite (fun _ => hcommand _ htail) fun _ => htail
  case penult =>
    exact Holds.bind noOverrun_need fun _ =>
      Holds.ite (fun _ => hcommand _ hbyte) fun _ => hbyte

theorem noOverrun_clearMode (st : Byte) (hfull : NoEmptyMessage msgs count)
    (hc : CursorsIn (msgEntry msgs idx.toNat) w r) :
    NoOverrun (OpenAt msgs count idx n w r) (clearMode st) := by
  refine Holds.bind (readsTs_openAt.change (fun _ => rfl) fun _ => rfl) fun _ => ?_
  refine Holds.bind (R := fun _ => OpenAt msgs count idx n w r)
    (Holds.readC1 fun s hs => readsTs_openAt s _ rfl rfl hs) fun c => ?_
  refine Holds.reads_eq (fun s hs => hs.curMsg_eq) ?_
  refine Holds.bind (R := fun _ => OpenAt msgs count idx n w r) (Holds.look fun _ => id) fun L => ?_
  refine Holds.ite (fun _ => noOverrun_txBranch L st hfull hc) fun _ s hs => ?_
  exact noOverrun_rxBranch (hc.read_inBuffer (hs.length_ne_zero hfull)) s hs

end Full

/-- The chain, where it is set, has no empty message. -/
def FullChain (s : State) : Prop :=
  ∀ msgs count, s.ts.msgs = some msgs → s.ts.count = some count → NoEmptyMessage msgs count

/-- In a chain with no empty message the handler overruns no buffer (R64, R91). -/
theorem noOverrun_isr : NoOverrun (fun s => HandlerReady s ∧ FullChain s) isr := by
  refine Holds.bind (R := fun _ s => HandlerReady s ∧ FullChain s)
    (Holds.readS fun s hs => ⟨readsTs_handlerReady s _ rfl rfl hs.1, hs.2⟩) fun st => ?_
  refine Holds.bind
    (R := fun closed s => (HandlerReady s ∧ FullChain s) ∧ (closed = false → RecordOpen s))
    (Holds.of_ok fun s hs => ?_) fun closed => ?_
  · rcases hs.1.record.1.guardHolds_eq hs.1.guarded with ⟨hopen, hg⟩ | hg
    · exact ⟨false, s, hg, hs, fun _ => hopen⟩
    · exact ⟨true, s, hg, hs, nofun⟩
  refine Holds.reads (V := fun _ => True) (fun s _ => ⟨_, trivial, rfl⟩) fun L _ => ?_
  refine Holds.ite (fun _ => noOverrun_of_ok fun _ _ => ⟨_, _, rfl⟩) fun hclosed => ?_
  refine Holds.ite (fun _ => noOverrun_of_ok fun _ _ => ⟨_, _, rfl⟩) fun _ => ?_
  rintro s ⟨⟨hready, hfull⟩, hopen⟩
  obtain ⟨msgs, count, idx, n, w, r, hat, hc⟩ :=
    hready.record.openAt hready.mode (hopen (by simpa using hclosed))
  exact noOverrun_clearMode st (hfull msgs count hat.msgs_eq hat.count_eq) hc s hat

/-- A reason other than BufferOverrun leaves that mark. -/
theorem FaultSet.bufferOverrun_add (fs : FaultSet) {e : FaultReason} (he : e ≠ .bufferOverrun) :
    (fs.add e).bufferOverrun = fs.bufferOverrun := by
  cases e
  case bufferOverrun => exact absurd rfl he
  all_goals rfl

theorem ChainSound.runAct_isr_bufferOverrun {s : State} (h : ChainSound s) (hon : InterruptOn s)
    (hfull : FullChain s) :
    (runAct .handler isr s).faults.bufferOverrun = s.faults.bufferOverrun := by
  have hkeeps := (handlerStable_agentWrites s).keeps_isr s (.refl s)
  have hno := noOverrun_isr s ⟨h.handlerReady hon, hfull⟩
  refine runAct_keeps (P := fun t => t.faults.bufferOverrun = s.faults.bufferOverrun) rfl
    (fun t ht => ?_) fun e w hw => ?_
  · rw [(hkeeps.1 _ t ht).faults]
  · have hw' := (hkeeps.2 e w hw).faults
    exact (FaultSet.bufferOverrun_add _ (hno.2 e w hw)).trans (by rw [hw'])

/-- A phase touches no buffer; on a sound chain its only fault is EmptyChain. -/
theorem PhaseStep.bufferOverrun {u : Nat} {p : Phase} {s t : State} (h : PhaseStep u p s t)
    (hs : ChainSound s) : t.faults.bufferOverrun = s.faults.bufferOverrun := by
  cases h with
  | hold | refuse => rfl
  | @go q w _ hgo => exact congrArg (·.bufferOverrun) hgo.faults
  | fault hpc hraise =>
    obtain ⟨rfl, rfl⟩ := hraise.empty_or_ready.resolve_right fun hp =>
      RecordSet.not_phaseRaises (hs.ready u (hpc ▸ hp)) hp hraise
    rfl

/-- In a sound chain with no empty message no move records a BufferOverrun. -/
theorem ChainSound.bufferOverrun_of_move {m : Move} {s t : State} (hs : ChainSound s)
    (hfull : FullChain s) (h : runSlot (.move m) s = .next t) :
    t.faults.bufferOverrun = s.faults.bufferOverrun := by
  have hwrites {w : State} (hw : AgentWrites s w) :
      w.faults.bufferOverrun = s.faults.bufferOverrun := by rw [hw.faults]
  cases m with
  | thread u =>
    cases hi : phaseInstr u (s.caller u).pc with
    | none => rw [runSlot_move_of_unselected (m := .thread u) hi] at h; cases h; rfl
    | some i =>
      rw [runSlot_move_of_selected (m := .thread u) hi] at h
      exact (phaseStep_of_phaseRow (phaseRow_of_phaseInstr hi) h).bufferOverrun hs
  | call u ctx msgs count =>
    cases h
    rcases callStep_cases u ctx msgs count s with h | ⟨-, -, -, h⟩ | h
    · rw [h]
    · rw [h]; rfl
    · rw [h]
  | resetCall => cases h; rfl
  | irq =>
    by_cases hp : IrqPending s
    · rw [show runSlot (.move .irq) s = _ from exec_irqDeliver_of_pending hp] at h
      cases h
      exact hs.runAct_isr_bufferOverrun hp.2.1 hfull
    · rw [show runSlot (.move .irq) s = _ from exec_irqDeliver_of_not_pending hp] at h
      cases h
      rfl
  | expire => cases h; exact hwrites (agentWrites_expireWatchdog s)
  | txComplete o => cases h; exact hwrites (agentWrites_txComplete o s)
  | rxComplete o => cases h; exact hwrites (agentWrites_rxComplete o s)
  | otherMaster busy => cases h; exact hwrites (agentWrites_otherMaster busy s)
  | stray a b c d => cases h; exact hwrites (agentWrites_strayFlags a b c d s)

end Sys2Proof.Machine

namespace Sys2Proof.Proofs

open Sys2Proof.Machine Sys2Proof.Claims

/-- Settles O9: memory by the rows, of which only MemWrite stores, and the callers by what an entry of
the schedule can do. -/
theorem stepKeepsCanonicalForm : Obligations.StepKeepsCanonicalForm := by
  rintro s t ⟨hmem, hcallers⟩ h
  obtain ⟨x, rest, k, hrun, -, -⟩ := step_takes_entry h
  exact ⟨runSlot_memory_wf (s := { s with agenda := rest, tick := k }) hmem hrun,
    (slotStep_of_runSlot hrun).callersCanonical hcallers⟩

/-- Settles O14: in a chain with no empty message no move of an agent overruns a buffer. -/
theorem onlyEmptyMessagesOverrun : Obligations.OnlyEmptyMessagesOverrun := by
  intro s t hs h ht
  by_cases hfull : FullChain s
  · obtain ⟨x, rest, k, hrun, hx, hrest⟩ := step_takes_entry h
    obtain ⟨m, rfl⟩ : ∃ m, x = .move m := hx.elim (hs.agentsOnly x) id
    exact .inl (((hs.of_agenda hrest).bufferOverrun_of_move hfull hrun).symm.trans ht)
  · simp only [FullChain, NoEmptyMessage, not_forall, not_not] at hfull
    obtain ⟨msgs, count, hm, hc, i, hi, hlen⟩ := hfull
    exact .inr ⟨msgs, count, hm, hc, i, hi, hlen⟩

/-- Settles O17: the storing rows store at the cursor, in transmit mode nowhere, a BufWrite stores its own
byte, and the other rows leave memory. -/
theorem memoryChangesOnlyWhereTheRulesStore : Obligations.MemoryChangesOnlyWhereTheRulesStore := by
  refine ⟨fun i s t hq hw h a => ?_, fun i s t hi h => storedAtCursor_of_storingRow hi h,
    fun i s t hi htx h a => ?_, fun r m k v s t h a ha => memRead_of_bufWrite h ha⟩
  · rw [exec_mem hq hw h]
  · rw [exec_mem_of_transmit hi htx h]

/-- Settles O58: each primitive answers inside its range, and outside it raises the fault that is
taken. -/
theorem primitivesCheckTheirBounds : Obligations.PrimitivesCheckTheirBounds := by
  intro s r m k v msgs count hr
  refine ⟨fun hlow hhigh => ?inside, fun hout op => ?outside, fun hm hc => ⟨?message, ?past⟩,
    fun hneg => ?before, fun hlow hc => ?unsetCount, fun hlow hhigh hc hm => ?unsetMsgs⟩
  case inside =>
    have hin : inBuffer m k = true := inBuffer_iff.2 ⟨hlow, hhigh⟩
    exact ⟨⟨_, exec_bufRead_in hr hin, rfl⟩, ⟨_, exec_bufWrite_in hr hin v, rfl,
      memRead_memWrite_same .., fun _ hb => memRead_memWrite_other hb ..⟩⟩
  case outside =>
    have hin : inBuffer m k = false := by
      rw [← Bool.not_eq_true, inBuffer_iff]
      omega
    exact exec_bufReadWrite_out hr hin op
  case message => exact fun hlow hhigh => ⟨_, exec_msg_of_ok hr (msgAt_ok hm hc hlow hhigh), rfl⟩
  case past => exact fun hlow hhigh => exec_msg_of_error hr (msgAt_past hc hlow hhigh)
  case before => exact exec_msg_of_error hr (msgAt_before hneg)
  case unsetCount => exact exec_msg_of_error hr (msgAt_unset_count hc hlow)
  case unsetMsgs => exact exec_msg_of_error hr (msgAt_unset_msgs hm hc hlow hhigh)

/-- Settles O25: both reads are one access that only extends the trace. -/
theorem statusAndControlReads : Obligations.StatusAndControlReads := fun _ =>
  ⟨⟨_, rfl, rfl⟩, ⟨_, rfl, rfl⟩⟩

end Sys2Proof.Proofs

/-! PROOFS. The encodings and what they name (30_encoding.md): settles O1, O2, O27, O30, O31, O60, O3,
O4, O23, O24 and O26. First the field lists as bytes and the decoder on the encoder's codes, then the
register accesses as the statements write them, then the two branches of the handler against the rows
of the dispatch table. -/

namespace Sys2Proof.Machine

open Sys2Proof.Claims

/-! ### Fields as bytes (R8) -/

/-- Field lists that differ in one field of the register name different bytes. -/
theorem fieldsByte_ne {ps qs : List Nat} {p : Nat} (hp : p < 8) (hin : p ∈ ps) (hout : p ∉ qs) :
    fieldsByte ps ≠ fieldsByte qs := by
  intro h
  have hbit := congrArg (·.getLsbD p) h
  simp only [getLsbD_fieldsByte] at hbit
  simp [hp, hin, hout] at hbit

/-- A vector masked to some fields of its two snapshots is a choice among them exactly when each of
the fields is as chosen. -/
theorem and_dispatchVector_eq_iff {ps qs ps' qs' : List Nat} (hp : ∀ p ∈ ps, p < 8)
    (hq : ∀ q ∈ qs, q < 8) (hps : ps' ⊆ ps) (hqs : qs' ⊆ qs) (v : Vec16) :
    v &&& dispatchVector (fieldsByte ps) (fieldsByte qs) =
        dispatchVector (fieldsByte ps') (fieldsByte qs') ↔
      (∀ p ∈ ps, v.getLsbD (p + 8) = decide (p ∈ ps')) ∧
        ∀ q ∈ qs, v.getLsbD q = decide (q ∈ qs') := by
  constructor
  · intro h
    have hbit (i : Nat) := congrArg (·.getLsbD i) h
    simp only [BitVec.getLsbD_and, getLsbD_dispatchVector, getLsbD_fieldsByte] at hbit
    refine ⟨fun p hmem => ?_, fun q hmem => ?_⟩
    · simpa [hmem, hp p hmem] using hbit (p + 8)
    · simpa [hmem, hq q hmem] using hbit q
  · rintro ⟨hcontrol, hstatus⟩
    refine BitVec.eq_of_getLsbD_eq fun i hi => ?_
    simp only [BitVec.getLsbD_and, getLsbD_dispatchVector, getLsbD_fieldsByte]
    by_cases hlow : i < 8
    · by_cases hmem : i ∈ qs
      · simp [hlow, hmem, hstatus i hmem]
      · simp [hlow, hmem, mt (@hqs i) hmem]
    · have hhigh : i - 8 < 8 := by omega
      by_cases hmem : i - 8 ∈ ps
      · have hv := hcontrol (i - 8) hmem
        rw [Nat.sub_add_cancel (not_lt.1 hlow)] at hv
        simp [hlow, hhigh, hmem, hv]
      · simp [hlow, hhigh, hmem, mt (@hps (i - 8)) hmem]

/-! ### The patterns of the dispatch rows (R88) -/

section Patterns
variable {L : Layout} (hwf : L.wf = true) (v : Vec16)
include hwf

theorem branchMatches_arbl_iff : branchMatches L .arbl v = true ↔ v.getLsbD L.arbl = true := by
  obtain ⟨hlt, -, -⟩ := layout_wf_fields hwf
  rw [branchMatches, beq_iff_eq]
  exact (and_dispatchVector_eq_iff (ps := []) (ps' := []) (qs := [L.arbl]) (qs' := [L.arbl])
    (by simp) (by simp [hlt]) (by simp) (by simp) v).trans (by simp)

theorem branchMatches_txNak_iff : branchMatches L .txNak v = true ↔ TxNaked L v := by
  obtain ⟨hlt, -, hs⟩ := layout_wf_fields hwf
  have hne : L.arbl ≠ L.rxak := by
    simp only [List.nodup_cons, List.mem_cons, not_or] at hs
    exact hs.2.1.2.1
  rw [branchMatches, beq_iff_eq]
  exact (and_dispatchVector_eq_iff (ps := [L.tx]) (ps' := [L.tx]) (qs := [L.arbl, L.rxak])
    (qs' := [L.rxak]) (by simp [hlt]) (by simp [hlt]) (by simp) (by simp) v).trans
    (by simp [TxNaked, hne])

/-- The rows of transmit mode after the NAK share one pattern. -/
theorem branchMatches_txAcked_iff {b : Branch}
    (hb : b ∈ [Branch.txWrByte, .txWrDone, .txWrMerge, .txRdNoack, .txRdAck]) :
    branchMatches L b v = true ↔ TxAcked L v := by
  obtain ⟨hlt, -, -⟩ := layout_wf_fields hwf
  have hrow : branchMatches L b v = branchMatches L .txWrByte v := by
    simp only [List.mem_cons, List.not_mem_nil, or_false] at hb
    rcases hb with rfl | rfl | rfl | rfl | rfl <;> rfl
  rw [hrow, branchMatches, beq_iff_eq]
  exact (and_dispatchVector_eq_iff (ps := [L.tx]) (ps' := [L.tx]) (qs := [L.arbl, L.rxak])
    (qs' := []) (by simp [hlt]) (by simp [hlt]) (by simp) (by simp) v).trans (by simp [TxAcked])

/-- The rows of receive mode share one pattern. -/
theorem branchMatches_rxMode_iff {b : Branch}
    (hb : b ∈ [Branch.rxLastRestart, .rxLastMerge1, .rxLastMerge, .rxPenultRestart, .rxByte]) :
    branchMatches L b v = true ↔ RxMode L v := by
  obtain ⟨hlt, -, -⟩ := layout_wf_fields hwf
  have hrow : branchMatches L b v = branchMatches L .rxByte v := by
    simp only [List.mem_cons, List.not_mem_nil, or_false] at hb
    rcases hb with rfl | rfl | rfl | rfl | rfl <;> rfl
  rw [hrow, branchMatches, beq_iff_eq]
  exact (and_dispatchVector_eq_iff (ps := [L.tx]) (ps' := []) (qs := [L.arbl])
    (qs' := []) (by simp [hlt]) (by simp [hlt]) (by simp) (by simp) v).trans (by simp [RxMode])

end Patterns

theorem branchMatches_guard (L : Layout) (v : Vec16) : branchMatches L .guard v = true := by
  simp [branchMatches, branchMask, branchPattern]

/-! ### The decoder on the encoder's codes (R84 to R88) -/

/-- The address byte bit by bit (R86): the direction below, the address above. -/
theorem getLsbD_addrByteOf (a : Addr7) (read : Bool) (i : Nat) :
    (addrByteOf a read).getLsbD i = if i = 0 then read else a.getLsbD (i - 1) := by
  have hdir : (if read then 1#8 else 0#8).getLsbD i = (decide (i = 0) && read) := by
    cases read <;> simp [BitVec.getLsbD_one]
  rw [addrByteOf, BitVec.getLsbD_or, hdir, BitVec.getLsbD_shiftLeft, BitVec.getLsbD_setWidth]
  rcases i with - | i
  · simp
  · by_cases hi : i < 7
    · have hlt : i + 1 < 8 := by omega
      have hlt' : i < 8 := by omega
      simp [hi, hlt, hlt']
    · simp [BitVec.getLsbD_of_ge a i (by omega)]

/-- The address is bits 7 to 1 (R86). -/
theorem addrByteOf_shiftRight (a : Addr7) (read : Bool) :
    (addrByteOf a read >>> 1).setWidth 7 = a := by
  refine BitVec.eq_of_getLsbD_eq fun i hi => ?_
  rw [BitVec.getLsbD_setWidth, BitVec.getLsbD_ushiftRight, getLsbD_addrByteOf]
  simp [hi]

theorem decodeAddr_addrByteOf (a : Addr7) (read : Bool) :
    decodeAddr (addrByteOf a read) = if read then .addrR a else .addrW a := by
  rw [decodeAddr, addrByteOf_shiftRight, getLsbD_addrByteOf, if_pos rfl]

theorem decodeC1_cmdStart (L : Layout) (mst : Bool) :
    decodeC1 L mst (cmdStartByte L) = .ok (if mst then .cmdTx else .cmdStart) := if_pos rfl

/-- What tells each command's byte from those before it in the table (R84, R85). -/
structure CommandFields (L : Layout) : Prop where
  rsta : L.rsta < 8 ∧ L.rsta ∉ [L.en, L.ie, L.mst, L.tx]
  tx : L.tx < 8 ∧ L.tx ∉ [L.en, L.ie, L.mst]
  txak : L.txak < 8 ∧ L.txak ∉ [L.en, L.ie, L.mst, L.tx, L.rsta]
  mst : L.mst < 8 ∧ L.mst ∉ [L.en, L.ie]
  ie : L.ie < 8 ∧ L.ie ∉ [L.en]
  arbl : L.arbl < 8 ∧ L.arbl ∉ [L.iicif]

theorem commandFields_of_wf {L : Layout} (hwf : L.wf = true) : CommandFields L := by
  obtain ⟨⟨-, hie, hmst, htx, htxak, hrsta, -, harbl, -, -⟩, hc, hs⟩ := layout_wf_fields hwf
  simp only [List.nodup_cons, List.mem_cons, List.not_mem_nil, or_false, not_or] at hc hs
  constructor <;> simp only [List.mem_cons, List.not_mem_nil, or_false, not_or] <;> grind

section Commands
variable {L : Layout} (hwf : L.wf = true) (mst : Bool)
include hwf

/-- CMD_RESTART alone sets RSTA (R84). -/
theorem decodeC1_cmdRestart : decodeC1 L mst (cmdRestartByte L) = .ok .cmdRestart := by
  obtain ⟨hlt, hrsta⟩ := (commandFields_of_wf hwf).rsta
  have hne : cmdRestartByte L ≠ cmdStartByte L := fieldsByte_ne hlt (by simp) hrsta
  simp [decodeC1, hne]

/-- CMD_RX_ACK leaves out TX, which the commands before it in the table set (R84). -/
theorem decodeC1_cmdRxAck : decodeC1 L mst (cmdRxAckByte L) = .ok .cmdRxAck := by
  obtain ⟨hlt, hout⟩ := (commandFields_of_wf hwf).tx
  have hne {ps : List Nat} (h : L.tx ∈ ps) : cmdRxAckByte L ≠ fieldsByte ps :=
    (fieldsByte_ne hlt h hout).symm
  have hstart : cmdRxAckByte L ≠ cmdStartByte L := hne (by simp)
  have hrestart : cmdRxAckByte L ≠ cmdRestartByte L := hne (by simp)
  simp [decodeC1, hstart, hrestart]

/-- CMD_RX_NOACK alone sets TXAK (R84). -/
theorem decodeC1_cmdRxNoack : decodeC1 L mst (cmdRxNoackByte L) = .ok .cmdRxNoack := by
  obtain ⟨hlt, hout⟩ := (commandFields_of_wf hwf).txak
  have hne {ps : List Nat} (h : ps ⊆ [L.en, L.ie, L.mst, L.tx, L.rsta]) :
      cmdRxNoackByte L ≠ fieldsByte ps := fieldsByte_ne hlt (by simp) fun hin => hout (h hin)
  have hstart : cmdRxNoackByte L ≠ cmdStartByte L := hne (by simp)
  have hrestart : cmdRxNoackByte L ≠ cmdRestartByte L := hne (by simp)
  have hack : cmdRxNoackByte L ≠ cmdRxAckByte L := hne (by simp)
  simp [decodeC1, hstart, hrestart, hack]

/-- CMD_STOP leaves out MST, which the commands before it in the table set (R84). -/
theorem decodeC1_cmdStop : decodeC1 L mst (cmdStopByte L) = .ok .cmdStop := by
  obtain ⟨hlt, hout⟩ := (commandFields_of_wf hwf).mst
  have hne {ps : List Nat} (h : L.mst ∈ ps) : cmdStopByte L ≠ fieldsByte ps :=
    (fieldsByte_ne hlt h hout).symm
  have hstart : cmdStopByte L ≠ cmdStartByte L := hne (by simp)
  have hrestart : cmdStopByte L ≠ cmdRestartByte L := hne (by simp)
  have hack : cmdStopByte L ≠ cmdRxAckByte L := hne (by simp)
  have hnoack : cmdStopByte L ≠ cmdRxNoackByte L := hne (by simp)
  simp [decodeC1, hstart, hrestart, hack, hnoack]

/-- CMD_IDLE leaves out IE, which every other command sets (R84). -/
theorem decodeC1_cmdIdle : decodeC1 L mst (cmdIdleByte L) = .ok .cmdIdle := by
  obtain ⟨hlt, hout⟩ := (commandFields_of_wf hwf).ie
  have hne {ps : List Nat} (h : L.ie ∈ ps) : cmdIdleByte L ≠ fieldsByte ps :=
    (fieldsByte_ne hlt h hout).symm
  have hstart : cmdIdleByte L ≠ cmdStartByte L := hne (by simp)
  have hrestart : cmdIdleByte L ≠ cmdRestartByte L := hne (by simp)
  have hack : cmdIdleByte L ≠ cmdRxAckByte L := hne (by simp)
  have hnoack : cmdIdleByte L ≠ cmdRxNoackByte L := hne (by simp)
  have hstop : cmdIdleByte L ≠ cmdStopByte L := hne (by simp)
  simp [decodeC1, hstart, hrestart, hack, hnoack, hstop]

end Commands

theorem decodeS_clrAll (L : Layout) : decodeS L (clrAllByte L) = .ok .clrAll := if_pos rfl

/-- CLR_IF leaves out ARBL (R85). -/
theorem decodeS_clrIf {L : Layout} (hwf : L.wf = true) : decodeS L (clrIfByte L) = .ok .clrIf := by
  obtain ⟨hlt, harbl⟩ := (commandFields_of_wf hwf).arbl
  have hne : clrIfByte L ≠ clrAllByte L := (fieldsByte_ne hlt (by simp) harbl).symm
  simp [decodeS, hne]

/-- A control value decodes to the command of its byte; only CMD_START and CMD_TX are told apart by
MST (R84). -/
theorem decodeC1_ok {L : Layout} {mst : Bool} {v : Byte} {i : Instr} (h : decodeC1 L mst v = .ok i) :
    (v = cmdStartByte L ∧ i = if mst then .cmdTx else .cmdStart) ∨
    (v = cmdRestartByte L ∧ i = .cmdRestart) ∨ (v = cmdRxAckByte L ∧ i = .cmdRxAck) ∨
    (v = cmdRxNoackByte L ∧ i = .cmdRxNoack) ∨ (v = cmdStopByte L ∧ i = .cmdStop) ∨
    (v = cmdIdleByte L ∧ i = .cmdIdle) := by
  unfold decodeC1 at h
  split_ifs at h
  all_goals cases h; simp [*]

/-- What decodes has a code that decodes to it. -/
def HasCode (L : Layout) (i : Instr) : Prop := ∃ d, encode L i = some d ∧ decode L d = .ok i

theorem hasCode_of_decodeC1 {L : Layout} {mst : Bool} {v : Byte} {i : Instr}
    (h : decodeC1 L mst v = .ok i) : HasCode L i := by
  by_cases hstart : v = cmdStartByte L
  · rw [hstart, decodeC1_cmdStart] at h
    cases h
    cases mst
    · exact ⟨_, rfl, decodeC1_cmdStart L false⟩
    · exact ⟨_, rfl, decodeC1_cmdStart L true⟩
  · have hmst : decodeC1 L true v = .ok i := by
      rw [← h]
      simp only [decodeC1, if_neg hstart]
    rcases decodeC1_ok h with ⟨hv, -⟩ | ⟨hv, hi⟩ | ⟨hv, hi⟩ | ⟨hv, hi⟩ | ⟨hv, hi⟩ | ⟨hv, hi⟩
    · exact absurd hv hstart
    all_goals exact ⟨.c1Write true v, by rw [hi, hv]; rfl, hmst⟩

theorem decodeS_ok {L : Layout} {v : Byte} {i : Instr} (h : decodeS L v = .ok i) :
    (v = clrAllByte L ∧ i = .clrAll) ∨ (v = clrIfByte L ∧ i = .clrIf) := by
  unfold decodeS at h
  split_ifs at h
  all_goals cases h; simp [*]

theorem hasCode_of_decodeS {L : Layout} {v : Byte} {i : Instr} (h : decodeS L v = .ok i) :
    HasCode L i := by
  rcases decodeS_ok h with ⟨hv, hi⟩ | ⟨hv, hi⟩
  all_goals exact ⟨.sWrite v, by rw [hi, hv]; rfl, h⟩

theorem hasCode_decodeAddr (L : Layout) (v : Byte) : HasCode L (decodeAddr v) := by
  unfold decodeAddr
  split
  · exact ⟨_, rfl, congrArg Except.ok (decodeAddr_addrByteOf _ true)⟩
  · exact ⟨_, rfl, congrArg Except.ok (decodeAddr_addrByteOf _ false)⟩

theorem decode_dispatch_ok {L : Layout} {b : Branch} {v : Vec16} {i : Instr}
    (h : decode L (.dispatch b v) = .ok i) : branchMatches L b v = true ∧ i = branchInstr b v := by
  simp only [decode] at h
  split_ifs at h with hmatch
  cases h
  exact ⟨hmatch, rfl⟩

/-- A dispatch row is well formed on its own pattern (R88). -/
theorem wellFormed_branchInstr (L : Layout) (b : Branch) (v : Vec16) :
    WellFormed L (branchInstr b v) = branchMatches L b v := by cases b <;> rfl

theorem encode_branchInstr (L : Layout) (b : Branch) (v : Vec16) :
    encode L (branchInstr b v) = some (.dispatch b v) := by cases b <;> rfl

theorem wellFormed_of_decode {L : Layout} {c : Code} {i : Instr} (h : decode L c = .ok i) :
    WellFormed L i = true := by
  cases c with
  | c1Write mst v =>
    rcases decodeC1_ok h with ⟨-, rfl⟩ | ⟨-, rfl⟩ | ⟨-, rfl⟩ | ⟨-, rfl⟩ | ⟨-, rfl⟩ | ⟨-, rfl⟩
    · cases mst <;> rfl
    all_goals rfl
  | sWrite v => rcases decodeS_ok h with ⟨-, rfl⟩ | ⟨-, rfl⟩ <;> rfl
  | addrWrite v =>
    cases h
    unfold decodeAddr
    split <;> rfl
  | dispatch b v =>
    obtain ⟨hmatch, rfl⟩ := decode_dispatch_ok h
    rw [wellFormed_branchInstr, hmatch]
  | dataWrite | dataRead | dummyRead | fWrite | fltWrite | sRead | c1Read => cases h; rfl

theorem hasCode_of_decode {L : Layout} {c : Code} {i : Instr} (h : decode L c = .ok i) :
    HasCode L i := by
  cases c with
  | c1Write mst v => exact hasCode_of_decodeC1 h
  | sWrite v => exact hasCode_of_decodeS h
  | addrWrite v => cases h; exact hasCode_decodeAddr L v
  | dispatch b v =>
    obtain ⟨-, rfl⟩ := decode_dispatch_ok h
    exact ⟨_, encode_branchInstr L b v, h⟩
  | dataWrite | dataRead | dummyRead | fWrite | fltWrite | sRead | c1Read =>
    cases h
    exact ⟨_, rfl, rfl⟩

/-- Every code of a well-formed instruction decodes to it, in a layout whose fields are apart. -/
theorem decode_encode {L : Layout} (hL : L.wf = true) {i : Instr} {c : Code}
    (hi : WellFormed L i = true) (he : encode L i = some c) : decode L c = .ok i := by
  have hrow {b : Branch} {v : Vec16} (h : branchMatches L b v = true) :
      decode L (.dispatch b v) = .ok (branchInstr b v) := if_pos h
  cases i
  case cmdStart => cases he; exact decodeC1_cmdStart L false
  case cmdTx => cases he; exact decodeC1_cmdStart L true
  case cmdRestart => cases he; exact decodeC1_cmdRestart hL true
  case cmdRxAck => cases he; exact decodeC1_cmdRxAck hL true
  case cmdRxNoack => cases he; exact decodeC1_cmdRxNoack hL true
  case cmdStop => cases he; exact decodeC1_cmdStop hL true
  case cmdIdle => cases he; exact decodeC1_cmdIdle hL true
  case clrAll => cases he; exact decodeS_clrAll L
  case clrIf => cases he; exact decodeS_clrIf hL
  case addrW a => cases he; exact congrArg Except.ok (decodeAddr_addrByteOf a false)
  case addrR a => cases he; exact congrArg Except.ok (decodeAddr_addrByteOf a true)
  case dataW | dataR | dummyR | freqF | freqFlt | rdS | rdC1 => cases he; rfl
  case isrGuard | isrArbl | isrTxNak | isrTxWrByte | isrTxWrDone | isrTxWrMerge | isrTxRdNoack
    | isrTxRdAck | isrRxLastRestart | isrRxLastMerge1 | isrRxLastMerge | isrRxPenultRestart
    | isrRxByte => cases he; exact hrow hi
  all_goals cases he

/-! ### The register accesses as the statements write them (R61, R229 to R231) -/

/-- CLR_ALL clears the two flags that a write of S can clear (R61, R85). -/
theorem clearedStatus_clrAllByte (L : Layout) (s : Byte) :
    clearedStatus L s (clrAllByte L) = clearBitAt (clearBitAt s L.arbl) L.iicif := by
  refine BitVec.eq_of_getLsbD_eq fun i hi => ?_
  simp only [clearedStatus, clrAllByte, BitVec.getLsbD_and, BitVec.getLsbD_not, getLsbD_fieldsByte,
    getLsbD_clearBitAt]
  simp [hi, Bool.and_assoc]

/-- CLR_IF clears IICIF alone, which is one of the two. -/
theorem clearedStatus_clrIfByte (L : Layout) (s : Byte) :
    clearedStatus L s (clrIfByte L) = clearBitAt s L.iicif := by
  refine BitVec.eq_of_getLsbD_eq fun i hi => ?_
  simp only [clearedStatus, clrAllByte, clrIfByte, BitVec.getLsbD_and, BitVec.getLsbD_not,
    getLsbD_fieldsByte, getLsbD_clearBitAt]
  by_cases h : i = L.iicif
  · simp [h]
  · simp [hi, h]

theorem clearAll_iff {s t : State} : ClearAll s t ↔ t = clearCommand clrAllByte s := by
  simp only [ClearAll, clearCommand, writeS, clearedStatus_clrAllByte]; rfl

theorem clearIf_iff {s t : State} : ClearIf s t ↔ t = clearCommand clrIfByte s := by
  simp only [ClearIf, clearCommand, writeS, clearedStatus_clrIfByte]; rfl

theorem dWrite_writeD (v : Byte) (s : State) : DWrite v s (writeD v s) :=
  ⟨v, by simp only [writeD, c1Mst, c1Tx, bitAt, Bool.and_eq_true]⟩

theorem readD_ok (s : State) : ∃ u, readD s = .ok s.rxLatch u ∧ DRead s u :=
  ⟨_, rfl, by simp only [DRead, pendingAfterReadD, c1Mst, c1Tx, c1Txak, bitAt, Bool.and_eq_true,
    Bool.not_eq_true']⟩

theorem dRead_ts {s u : State} (h : DRead s u) : u.ts = s.ts := by rw [h]

/-- Outside master-receive mode a read of D leaves what is in flight (R231). -/
theorem pendingAfterReadD_of_not_receiving {L : Layout} {c1 : Byte}
    (h : c1Tx L c1 = true ∨ c1Mst L c1 = false) (p : Pending) : pendingAfterReadD L c1 p = p := by
  rcases h with h | h <;> simp [pendingAfterReadD, h]

/-- `Msg(ts.idx)` is the current message (R24). -/
theorem curMsg_of_current {s : State} {m : Message} (h : Current s m) : curMsg s = .ok m s := by
  obtain ⟨msgs, count, idx, hmsgs, hcount, hidx, hlow, hhigh, rfl⟩ := h
  exact curMsg_ok hmsgs hcount hidx hlow hhigh

section DataRead
variable {s u : State} {m : Message} {b : Byte} {k : Int}

/-- Inside the buffer the byte read from D is stored at the read cursor (R87). -/
theorem dataRead_in (hD : readD s = .ok b u) (hk : u.ts.read = some k) (hin : inBuffer m k = true) :
    dataRead m s = .ok b { u with mem := memWrite (bufAddr m k) b u.mem } := by
  simp [dataRead, act_bind, act_map, hD, need_some (f := (·.read)) hk, bufWrite_in hin]

/-- Outside it the read of D stands (R64). -/
theorem dataRead_out (hD : readD s = .ok b u) (hk : u.ts.read = some k)
    (hout : inBuffer m k = false) :
    dataRead m s = .error .bufferOverrun u := by
  simp [dataRead, act_bind, act_map, hD, need_some (f := (·.read)) hk, bufWrite_out hout]

theorem exec_dataR_of_ok (hr : s.handlerStopped = false) (hm : Current s m)
    (h : dataRead m s = .ok b u) : exec .dataR s = .next { u with out := .byte b } :=
  congrArg Host.Outcome.next (runAct_ok (r := .handler) hr (by
    simp [act_bind, give, curMsg_of_current hm, h]))

theorem exec_dataR_of_overrun (hr : s.handlerStopped = false) (hm : Current s m)
    (h : dataRead m s = .error .bufferOverrun u) : exec .dataR s = .next (overrun u) := by
  have hact : (do let m ← curMsg; let b ← dataRead m; give (.byte b) : Act Unit) s =
      .error .bufferOverrun u := by simp [act_bind, curMsg_of_current hm, h]
  exact congrArg Host.Outcome.next (runAct_error (r := .handler) hr hact)

end DataRead

/-! ### A row of the dispatch table that is taken (R88) -/

/-- Msg(i) answers an entry inside the chain alone (R65). -/
theorem msgAt_ok_iff {s : State} {i : Int} {n : Message} : msgAt i s = .ok n s ↔
    ∃ msgs count, s.ts.msgs = some msgs ∧ s.ts.count = some count ∧ 0 ≤ i ∧ i < count ∧
      n = msgEntry msgs i.toNat := by
  refine ⟨fun h => ?_, ?_⟩
  · by_cases hlow : i < 0
    · rw [msgAt_before hlow] at h; cases h
    cases hc : s.ts.count with
    | none => rw [msgAt_unset_count hc (not_lt.1 hlow)] at h; cases h
    | some count =>
      by_cases hhigh : count ≤ i
      · rw [msgAt_past hc (not_lt.1 hlow) hhigh] at h; cases h
      cases hm : s.ts.msgs with
      | none => rw [msgAt_unset_msgs hm hc (not_lt.1 hlow) (not_le.1 hhigh)] at h; cases h
      | some msgs =>
        rw [msgAt_ok hm hc (not_lt.1 hlow) (not_le.1 hhigh)] at h
        cases h
        exact ⟨msgs, count, rfl, rfl, not_lt.1 hlow, not_le.1 hhigh, rfl⟩
  · rintro ⟨msgs, count, hm, hc, hlow, hhigh, rfl⟩
    exact msgAt_ok hm hc hlow hhigh

/-- A row's condition reads the Transfer State and the layout alone. -/
theorem rowTaken_congr {b : Branch} {v : Vec16} {m : Message} {s t : State} (h : RowTaken b v m s)
    (hts : t.ts = s.ts) (hp : t.params = s.params) : RowTaken b v m t := by
  cases b
  case guard | arbl | txWrMerge => exact h
  all_goals simpa only [RowTaken, msgAt_ok_iff, hts, hp] using h

theorem branchMatches_of_rowTaken {b : Branch} {v : Vec16} {m : Message} {s : State}
    (hwf : s.params.layout.wf = true) (h : RowTaken b v m s) :
    branchMatches s.params.layout b v = true := by
  cases b
  case txNak => exact (branchMatches_txNak_iff hwf v).2 h
  case txWrByte | txWrDone | txRdNoack | txRdAck =>
    exact (branchMatches_txAcked_iff hwf v (by simp)).2 h.1
  case rxLastRestart | rxLastMerge1 | rxLastMerge | rxPenultRestart | rxByte =>
    exact (branchMatches_rxMode_iff hwf v (by simp)).2 h.1
  case guard | arbl | txWrMerge => exact h.elim

/-! ### The two branches of the handler (R133, R140) -/

/-- The branch of the mode that the control snapshot of `v` shows, with its status snapshot. -/
def modeBranch (L : Layout) (v : Vec16) (m : Message) : Act Unit :=
  if c1Tx L (vecControl v) then txBranch L (vecStatus v) m else rxBranch m

@[simp] theorem vecControl_dispatchVector (c st : Byte) : vecControl (dispatchVector c st) = c := by
  refine BitVec.eq_of_getLsbD_eq fun i hi => ?_
  rw [vecControl, BitVec.getLsbD_setWidth, BitVec.getLsbD_ushiftRight, getLsbD_dispatchVector]
  simp [hi]

@[simp] theorem vecStatus_dispatchVector (c st : Byte) : vecStatus (dispatchVector c st) = st := by
  refine BitVec.eq_of_getLsbD_eq fun i hi => ?_
  rw [vecStatus, BitVec.getLsbD_setWidth, getLsbD_dispatchVector]
  simp [hi]

section Snapshots
variable {L : Layout} (hwf : L.wf = true) (v : Vec16)
include hwf

theorem txNaked_iff : TxNaked L v ↔
    c1Tx L (vecControl v) = true ∧ sArbl L (vecStatus v) = false ∧ sRxak L (vecStatus v) = true := by
  obtain ⟨hlt, -⟩ := layout_wf_fields hwf
  simp [TxNaked, c1Tx, sArbl, sRxak, bitAt, vecControl, vecStatus, hlt, Nat.add_comm]

theorem txAcked_iff : TxAcked L v ↔
    c1Tx L (vecControl v) = true ∧ sArbl L (vecStatus v) = false ∧ sRxak L (vecStatus v) = false := by
  obtain ⟨hlt, -⟩ := layout_wf_fields hwf
  simp [TxAcked, c1Tx, sArbl, sRxak, bitAt, vecControl, vecStatus, hlt, Nat.add_comm]

theorem rxMode_iff : RxMode L v ↔
    c1Tx L (vecControl v) = false ∧ sArbl L (vecStatus v) = false := by
  obtain ⟨hlt, -⟩ := layout_wf_fields hwf
  simp [RxMode, c1Tx, sArbl, bitAt, vecControl, vecStatus, hlt, Nat.add_comm]

end Snapshots

/-- A row whose condition holds: the table's reading of its state half says so, and the branch
pseudocode runs its body. -/
theorem branchCond_and_modeBranch_of_rowTaken {b : Branch} {v : Vec16} {m : Message} {s : State}
    (hwf : s.params.layout.wf = true) (h : RowTaken b v m s) :
    branchCond b m s = .ok true s ∧ modeBranch s.params.layout v m s = branchBody b m s := by
  cases b
  case txNak =>
    obtain ⟨htx, -, hnak⟩ := (txNaked_iff hwf v).1 h
    simp [branchCond, modeBranch, txBranch, branchBody, act_pure, htx, hnak]
  case txWrByte =>
    obtain ⟨hv, hread, w, hw, hne⟩ := h
    obtain ⟨htx, -, hack⟩ := (txAcked_iff hwf v).1 hv
    simp [branchCond, modeBranch, txBranch, branchBody, act_bind, act_pure, htx, hack, hread,
      need_some (f := (·.written)) hw, hne]
  case txWrDone =>
    obtain ⟨hv, hread, hw⟩ := h
    obtain ⟨htx, -, hack⟩ := (txAcked_iff hwf v).1 hv
    simp [branchCond, modeBranch, txBranch, branchBody, act_bind, act_pure, htx, hack, hread,
      need_some (f := (·.written)) hw]
  case txRdNoack =>
    obtain ⟨hv, hread, hlen, hr⟩ := h
    obtain ⟨htx, -, hack⟩ := (txAcked_iff hwf v).1 hv
    simp [branchCond, modeBranch, txBranch, branchBody, act_bind, htx, hack, hread, hlen,
      need_some (f := (·.restart)) hr]
  case txRdAck =>
    obtain ⟨hv, hread, hor⟩ := h
    obtain ⟨htx, -, hack⟩ := (txAcked_iff hwf v).1 hv
    by_cases hlen : m.length = 1
    · have hr := hor.resolve_left (not_not.2 hlen)
      simp [branchCond, modeBranch, txBranch, branchBody, act_bind, act_pure, htx, hack, hread, hlen,
        need_some (f := (·.restart)) hr]
    · simp [branchCond, modeBranch, txBranch, branchBody, act_pure, htx, hack, hread, hlen]
  case rxLastRestart =>
    obtain ⟨hv, hi, hr⟩ := h
    obtain ⟨hrx, -⟩ := (rxMode_iff hwf v).1 hv
    simp [branchCond, modeBranch, rxBranch, branchBody, act_bind, hrx,
      need_some (f := (·.read)) hi, need_some (f := (·.restart)) hr]
  case rxLastMerge1 | rxLastMerge =>
    obtain ⟨hv, hi, hr, k, n, hk, hn, hlen⟩ := h
    obtain ⟨hrx, -⟩ := (rxMode_iff hwf v).1 hv
    simp [branchCond, modeBranch, rxBranch, branchBody, act_bind, act_map, hrx,
      need_some (f := (·.read)) hi, need_some (f := (·.restart)) hr, need_some (f := (·.idx)) hk,
      hn, hlen]
  case rxPenultRestart =>
    obtain ⟨hv, hi, hr⟩ := h
    obtain ⟨hrx, -⟩ := (rxMode_iff hwf v).1 hv
    simp [branchCond, modeBranch, rxBranch, branchBody, act_bind, hrx,
      need_some (f := (·.read)) hi, need_some (f := (·.restart)) hr]
  case rxByte =>
    obtain ⟨hv, i, hi, hlast, hor⟩ := h
    obtain ⟨hrx, -⟩ := (rxMode_iff hwf v).1 hv
    by_cases hpen : i = m.length - 2
    · have hr := hor.resolve_left (not_not.2 hpen)
      subst hpen
      simp [branchCond, modeBranch, rxBranch, branchBody, act_bind, act_map, hrx,
        need_some (f := (·.read)) hi, need_some (f := (·.restart)) hr]
    · simp [branchCond, modeBranch, rxBranch, branchBody, act_bind, act_pure, hrx,
        need_some (f := (·.read)) hi, hlast, hpen]
  case guard | arbl | txWrMerge => exact h.elim

/-- The row of the table runs its body on the current message. -/
theorem exec_branchInstr_of_rowTaken {b : Branch} {v : Vec16} {m : Message} {s : State}
    (hwf : s.params.layout.wf = true) (hm : Current s m) (h : RowTaken b v m s) :
    exec (branchInstr b v) s = .next (runAct .handler (branchBody b m) s) := by
  have hmatch := branchMatches_of_rowTaken hwf h
  have hcond := (branchCond_and_modeBranch_of_rowTaken hwf h).1
  have hact : branchAct s.params.layout b v s = branchBody b m s := by
    simp [branchAct, hmatch, act_bind, curMsg_of_current hm, hcond]
  have hrun : runAct .handler (branchAct s.params.layout b v) s =
      runAct .handler (branchBody b m) s := by simp only [runAct, hact]
  cases b
  case guard | arbl | txWrMerge => exact h.elim
  case txNak => simp only [exec, branchInstr, execIsrTxNak, hmatch, if_true]; rfl
  all_goals exact congrArg Host.Outcome.next hrun

/-- Clear and mode read as one state: IICIF is cleared, then C1 is read (R133). -/
def modeRead (s : State) : State :=
  { clearCommand clrIfByte s with
    cmds := (clearCommand clrIfByte s).cmds ++ [.read .c1 s.c1] }

theorem clearMode_of_current {s : State} {m : Message} (hm : Current s m) (st : Byte) :
    clearMode st s = modeBranch s.params.layout (dispatchVector s.c1 st) m (modeRead s) := by
  have hm' : curMsg (modeRead s) = .ok m (modeRead s) := curMsg_of_current hm
  have hread : readC1 (clearCommand clrIfByte s) = .ok s.c1 (modeRead s) := rfl
  simp only [clearMode, act_bind, change_apply, hread, hm', look_apply, modeBranch,
    vecControl_dispatchVector, vecStatus_dispatchVector]
  rfl

/-- No row but those of arbitration and the guard is taken after a loss (R88). -/
theorem sArbl_of_rowTaken {b : Branch} {v : Vec16} {m : Message} {s : State}
    (hwf : s.params.layout.wf = true) (h : RowTaken b v m s) :
    sArbl s.params.layout (vecStatus v) = false := by
  cases b
  case txNak => exact ((txNaked_iff hwf v).1 h).2.1
  case txWrByte | txWrDone | txRdNoack | txRdAck => exact ((txAcked_iff hwf v).1 h.1).2.1
  case rxLastRestart | rxLastMerge1 | rxLastMerge | rxPenultRestart | rxByte =>
    exact ((rxMode_iff hwf v).1 h.1).2
  case guard | arbl | txWrMerge => exact h.elim

/-- Past the guard and without arbitration loss the invocation is clear and mode read on the status
snapshot (R130). -/
theorem isr_of_passes {s : State} (hg : GuardPasses s)
    (harbl : sArbl s.params.layout s.status = false) :
    isr s = clearMode s.status (statusRead s) := by
  have hguard : guardHolds (statusRead s) = .ok false (statusRead s) := guardHolds_of_passes hg
  have hread : readS s = .ok s.status (statusRead s) := rfl
  have harbl' : sArbl (statusRead s).params.layout s.status = false := harbl
  simp [isr, act_bind, hread, hguard, harbl']

/-- Steps of one agent that has not stopped agree when their actions do. -/
theorem runAct_congr {r : Runner} {a a' : Act Unit} {s t : State} (hs : stoppedBy r s = false)
    (ht : stoppedBy r t = false) (h : a s = a' t) : runAct r a s = runAct r a' t := by
  simp [runAct, hs, ht, h]

section Handler
variable {s : State} (hr : s.handlerStopped = false)
include hr

/-- Past the guard and without arbitration loss the entry is ISR_CLEAR_MODE on the snapshot. -/
theorem exec_isrEntry_of_passes (hg : GuardPasses s)
    (harbl : sArbl s.params.layout s.status = false) :
    exec .isrEntry s = exec (.isrClearMode s.status) (statusRead s) :=
  congrArg Host.Outcome.next (runAct_congr (r := .handler) hr hr (isr_of_passes hg harbl))

variable {b : Branch} {st : Byte} {m : Message} (hwf : s.params.layout.wf = true) (hm : Current s m)
  (h : RowTaken b (dispatchVector s.c1 st) m s)
include hwf hm h

/-- ISR_CLEAR_MODE runs the row that is taken, after clear and mode read. -/
theorem exec_isrClearMode_of_rowTaken :
    exec (.isrClearMode st) s = exec (branchInstr b (dispatchVector s.c1 st)) (modeRead s) := by
  have h' : RowTaken b (dispatchVector s.c1 st) m (modeRead s) := rowTaken_congr h rfl rfl
  have hbranch := (branchCond_and_modeBranch_of_rowTaken (s := modeRead s) hwf h').2
  have hact : clearMode st s = branchBody b m (modeRead s) :=
    (clearMode_of_current hm st).trans hbranch
  rw [exec_branchInstr_of_rowTaken (s := modeRead s) hwf hm h']
  exact congrArg Host.Outcome.next (runAct_congr (r := .handler) hr hr hact)

/-- So does ISR_RX_DISPATCH in receive mode. -/
theorem exec_isrRxDispatch_of_rowTaken (hrx : c1Tx s.params.layout s.c1 = false) :
    exec .isrRxDispatch s = exec (branchInstr b (dispatchVector s.c1 st)) s := by
  have hact : (do let m ← curMsg; rxBranch m : Act Unit) s = branchBody b m s := by
    rw [← (branchCond_and_modeBranch_of_rowTaken hwf h).2]
    simp [modeBranch, act_bind, curMsg_of_current hm, hrx]
  rw [exec_branchInstr_of_rowTaken hwf hm h]
  exact congrArg Host.Outcome.next (runAct_congr (r := .handler) hr hr hact)

end Handler

/-! ### The table read in its order (R88) -/

/-- The first of some rows whose state condition holds. -/
def firstTaken (m : Message) : List Branch → Act Unit
  | [] => pure ()
  | b :: bs => do
    let taken ← branchCond b m
    if taken then branchBody b m else firstTaken m bs

/-- The table is read over the rows whose pattern the vector has. -/
theorem firstBranch_eq_firstTaken (L : Layout) (v : Vec16) (m : Message) (bs : List Branch) :
    firstBranch L v m bs = firstTaken m (bs.filter (branchMatches L · v)) := by
  induction bs with
  | nil => rfl
  | cons b bs ih => cases h : branchMatches L b v <;> simp [firstBranch, firstTaken, h, ih]

/-- The rows of transmit mode after the NAK (R135 to R139). -/
def txRows : List Branch := [.txWrByte, .txWrDone, .txRdNoack, .txRdAck]

/-- The rows of receive mode (R141 to R146). -/
def rxRows : List Branch := [.rxLastRestart, .rxLastMerge1, .rxLastMerge, .rxPenultRestart, .rxByte]

/-- The rows that a vector selects by its bits alone: those of its mode and acknowledgement. -/
theorem dispatchOrder_filter {L : Layout} (hwf : L.wf = true) {v : Vec16} {nak acked rx : Bool}
    (hnak : TxNaked L v ↔ nak = true) (hacked : TxAcked L v ↔ acked = true)
    (hrx : RxMode L v ↔ rx = true) :
    dispatchOrder.filter (branchMatches L · v) =
      (if nak then [.txNak] else []) ++ (if acked then txRows else []) ++
        if rx then rxRows else [] := by
  have hfirst : branchMatches L .txNak v = nak :=
    Bool.eq_iff_iff.2 ((branchMatches_txNak_iff hwf v).trans hnak)
  have htxRow (b : Branch) (hb : b ∈ txRows) : branchMatches L b v = acked := by
    refine Bool.eq_iff_iff.2 ((branchMatches_txAcked_iff hwf v ?_).trans hacked)
    exact List.Sublist.subset (by decide) hb
  have hrxRow (b : Branch) (hb : b ∈ rxRows) : branchMatches L b v = rx :=
    Bool.eq_iff_iff.2 ((branchMatches_rxMode_iff hwf v hb).trans hrx)
  rw [show dispatchOrder = [.txNak] ++ txRows ++ rxRows from rfl, List.filter_append,
    List.filter_append, List.filter_congr htxRow, List.filter_congr hrxRow]
  cases nak <;> cases acked <;> cases rx <;> simp [hfirst]

/-- An acknowledged byte in transmit mode: the rows in their order are the branch pseudocode, fault
for fault. -/
theorem firstTaken_txRows (L : Layout) {st : Byte} (hack : sRxak L st = false) (m : Message)
    (s : State) : firstTaken m txRows s = txBranch L st m s := by
  cases hread : m.read with
  | false =>
    cases hw : s.ts.written with
    | none =>
      simp [txRows, firstTaken, branchCond, txBranch, act_bind, act_map, hack, hread,
        need_none (f := (·.written)) hw]
    | some w =>
      by_cases hlen : w = m.length <;>
        simp [txRows, firstTaken, branchCond, branchBody, txBranch, act_bind, act_map, hack, hread,
          need_some (f := (·.written)) hw, hlen]
  | true =>
    by_cases hlen : m.length = 1
    · cases hr : s.ts.restart with
      | none =>
        simp [txRows, firstTaken, branchCond, txBranch, act_bind, act_pure, hack, hread, hlen,
          need_none (f := (·.restart)) hr]
      | some restart =>
        cases restart <;>
          simp [txRows, firstTaken, branchCond, branchBody, txBranch, act_bind, act_pure, hack, hread,
            hlen, need_some (f := (·.restart)) hr]
    · simp [txRows, firstTaken, branchCond, branchBody, txBranch, act_bind, act_pure, hack, hread,
        hlen]

section RxRows
variable {m : Message} {s : State}

/-- At the last byte the rows read the restart flag, and where it is false the next message (R141 to
R143). -/
theorem firstTaken_rxRows_last (hi : s.ts.read = some (m.length - 1)) :
    firstTaken m rxRows s = rxBranch m s := by
  have hread := need_some (f := (·.read)) hi
  cases hr : s.ts.restart with
  | none =>
    simp [rxRows, firstTaken, branchCond, rxBranch, act_bind, hread, need_none (f := (·.restart)) hr]
  | some restart =>
    have hrestart := need_some (f := (·.restart)) hr
    cases restart with
    | true =>
      simp [rxRows, firstTaken, branchCond, branchBody, rxBranch, act_bind, hread, hrestart]
    | false =>
      cases hk : s.ts.idx with
      | none =>
        simp [rxRows, firstTaken, branchCond, rxBranch, act_bind, hread, hrestart,
          need_none (f := (·.idx)) hk]
      | some k =>
        have hidx := need_some (f := (·.idx)) hk
        rcases msgAt_writes_nothing (k + 1) s with ⟨n, hn⟩ | ⟨e, hn⟩
        · by_cases hlen : n.length = 1 <;>
            simp [rxRows, firstTaken, branchCond, branchBody, rxBranch, act_bind, act_map, hread,
              hrestart, hidx, hn, hlen]
        · simp [rxRows, firstTaken, branchCond, rxBranch, act_bind, act_map, hread, hrestart, hidx,
            hn]

/-- At the second-to-last byte they read the restart flag (R145). -/
theorem firstTaken_rxRows_penult (hi : s.ts.read = some (m.length - 2)) :
    firstTaken m rxRows s = rxBranch m s := by
  have hread := need_some (f := (·.read)) hi
  cases hr : s.ts.restart with
  | none =>
    simp [rxRows, firstTaken, branchCond, rxBranch, act_bind, act_pure, hread,
      need_none (f := (·.restart)) hr]
  | some restart =>
    cases restart <;>
      simp [rxRows, firstTaken, branchCond, branchBody, rxBranch, act_bind, act_pure, act_map, hread,
        need_some (f := (·.restart)) hr]

/-- In receive mode likewise. -/
theorem firstTaken_rxRows (m : Message) (s : State) : firstTaken m rxRows s = rxBranch m s := by
  cases hi : s.ts.read with
  | none =>
    simp [rxRows, firstTaken, branchCond, rxBranch, act_bind, need_none (f := (·.read)) hi]
  | some i =>
    by_cases hlast : i = m.length - 1
    · exact firstTaken_rxRows_last (hlast ▸ hi)
    by_cases hpen : i = m.length - 2
    · exact firstTaken_rxRows_penult (hpen ▸ hi)
    simp [rxRows, firstTaken, branchCond, branchBody, rxBranch, act_bind, act_pure,
      need_some (f := (·.read)) hi, hlast, hpen]

end RxRows

/-- The table read in its order is the branch of the mode. -/
theorem firstBranch_eq_modeBranch {L : Layout} (hwf : L.wf = true) {v : Vec16}
    (harbl : sArbl L (vecStatus v) = false) (m : Message) (s : State) :
    firstBranch L v m dispatchOrder s = modeBranch L v m s := by
  have hnak := txNaked_iff hwf v
  have hacked := txAcked_iff hwf v
  have hrx := rxMode_iff hwf v
  rw [firstBranch_eq_firstTaken, modeBranch]
  cases htx : c1Tx L (vecControl v) with
  | false =>
    rw [dispatchOrder_filter hwf (nak := false) (acked := false) (rx := true) (by simp [hnak, htx])
      (by simp [hacked, htx]) (by simp [hrx, htx, harbl])]
    exact firstTaken_rxRows m s
  | true =>
    cases hack : sRxak L (vecStatus v) with
    | false =>
      rw [dispatchOrder_filter hwf (nak := false) (acked := true) (rx := false)
        (by simp [hnak, hack]) (by simp [hacked, htx, harbl, hack]) (by simp [hrx, htx])]
      exact firstTaken_txRows L hack m s
    | true =>
      rw [dispatchOrder_filter hwf (nak := true) (acked := false) (rx := false)
        (by simp [hnak, htx, harbl, hack]) (by simp [hacked, hack]) (by simp [hrx, htx])]
      simp only [txBranch, hack, if_true]
      rfl

end Sys2Proof.Machine

namespace Sys2Proof.Proofs

open Sys2Proof.Machine Sys2Proof.Claims

/-- Settles O1: each command's byte differs from those tried before it, the address byte holds its
operands, and a dispatch row carries a vector of its pattern. -/
theorem decodeOfEncodeIsTheInstruction : Obligations.DecodeOfEncodeIsTheInstruction :=
  fun _ _ _ hL hi he => decode_encode hL hi he

/-- Settles O2: the decoder's cases, each with its instruction's own code. -/
theorem decoderAcceptsOnlyTheSpecsValues : Obligations.DecoderAcceptsOnlyTheSpecsValues := by
  refine fun L => ⟨fun c i h => ⟨wellFormed_of_decode h, hasCode_of_decode h⟩,
    fun mst v i h => ?control, fun v i h => ?status, fun b v i h => ?vector⟩
  case control =>
    have hmem {fs : List Nat} (hfs : fs ∈ [startFields L, restartFields L, rxAckFields L,
        rxNoackFields L, stopFields L, idleFields L]) := List.mem_map_of_mem (f := fieldsByte) hfs
    rcases decodeC1_ok h with ⟨rfl, -⟩ | ⟨rfl, -⟩ | ⟨rfl, -⟩ | ⟨rfl, -⟩ | ⟨rfl, -⟩ | ⟨rfl, -⟩
    · exact hmem (fs := startFields L) (by simp)
    · exact hmem (fs := restartFields L) (by simp)
    · exact hmem (fs := rxAckFields L) (by simp)
    · exact hmem (fs := rxNoackFields L) (by simp)
    · exact hmem (fs := stopFields L) (by simp)
    · exact hmem (fs := idleFields L) (by simp)
  case status =>
    rcases decodeS_ok h with ⟨rfl, -⟩ | ⟨rfl, -⟩
    · exact List.mem_cons_self
    · exact List.mem_cons_of_mem _ List.mem_cons_self
  case vector => exact beq_iff_eq.1 (decode_dispatch_ok h).1

/-- Settles O27: D is read first; the store, or the overrun, follows. -/
theorem dataReadStoresTheByte : Obligations.DataReadStoresTheByte := by
  intro s m k hr hm hk
  obtain ⟨u, hD, hu⟩ := readD_ok s
  have hku : u.ts.read = some k := dRead_ts hu ▸ hk
  refine ⟨fun hlow hhigh => ?inside, fun hout => ?outside⟩
  case inside =>
    have hin : inBuffer m k = true := inBuffer_iff.2 ⟨hlow, hhigh⟩
    exact ⟨_, exec_dataR_of_ok hr hm (dataRead_in hD hku hin), u, _, hu,
      ⟨rfl, memRead_memWrite_same .., fun _ hb => memRead_memWrite_other hb ..⟩, rfl⟩
  case outside =>
    have hin : inBuffer m k = false := by
      rw [← Bool.not_eq_true, inBuffer_iff]
      omega
    exact ⟨_, exec_dataR_of_overrun hr hm (dataRead_out hD hku hin), u, hu, rfl⟩

/-- Settles O30: clear and mode read leave what the row's condition reads, and both the branch and the
row then run the row's body. -/
theorem handlerRunsTheRowOfTheTable : Obligations.HandlerRunsTheRowOfTheTable := by
  intro s m b hr hwf hm hrow
  have hrow' : RowTaken b (dispatchVector s.c1 s.status) m (statusRead s) :=
    rowTaken_congr hrow rfl rfl
  have harbl := sArbl_of_rowTaken hwf hrow
  rw [vecStatus_dispatchVector] at harbl
  refine ⟨fun hg w hw => ⟨?entry, fun hp => exec_irqDeliver_of_pending hp⟩, fun w hw => ?clearMode,
    fun hrx => exec_isrRxDispatch_of_rowTaken hr hwf hm hrow hrx⟩
  case entry =>
    rw [exec_isrEntry_of_passes hr hg harbl, clearIf_iff.1 hw]
    exact exec_isrClearMode_of_rowTaken (s := statusRead s) hr hwf hm hrow'
  case clearMode =>
    rw [clearIf_iff.1 hw]
    exact exec_isrClearMode_of_rowTaken hr hwf hm hrow

/-- Settles O31: after clear and mode read, the table in its order is the branch of the mode. -/
theorem branchesFollowTheDispatchTable : Obligations.BranchesFollowTheDispatchTable := by
  intro st s hwf harbl
  have hread : readC1 (clearCommand clrIfByte s) = .ok s.c1 (modeRead s) := rfl
  have harbl' : sArbl s.params.layout (vecStatus (dispatchVector s.c1 st)) = false := by
    rw [vecStatus_dispatchVector]; exact harbl
  simp only [clearMode, act_bind, change_apply, hread]
  rcases curMsg_writes_nothing (modeRead s) with ⟨m, hm⟩ | ⟨e, hm⟩
  · simp only [hm, firstBranch_eq_modeBranch hwf harbl', look_apply, modeBranch,
      vecControl_dispatchVector, vecStatus_dispatchVector]
    rfl
  · simp only [hm]

/-- Settles O60: each row's mask and match, field by field. -/
theorem patternsTestTheirBits : Obligations.PatternsTestTheirBits := fun L v hwf =>
  ⟨branchMatches_guard L v, branchMatches_arbl_iff hwf v, branchMatches_txNak_iff hwf v,
    fun _ hb => branchMatches_txAcked_iff hwf v hb, fun _ hb => branchMatches_rxMode_iff hwf v hb⟩

/-- Settles O3: in the default layout the decoder computes on the fixed words. -/
theorem specWordsDecode : Obligations.SpecWordsDecode :=
  ⟨rfl, rfl, rfl, rfl, rfl, rfl, rfl, rfl, rfl, rfl⟩

/-- Settles O4: the bits of the address byte. -/
theorem addressByteHoldsAddressAndDirection : Obligations.AddressByteHoldsAddressAndDirection := by
  intro m
  refine ⟨BitVec.eq_of_getLsbD_eq fun i hi => ?_, getLsbD_addrByteOf m.addr m.read 0⟩
  rw [BitVec.getLsbD_extractLsb', addrByte, getLsbD_addrByteOf]
  simp [hi]

/-- Settles O23: a status command is one write of S, in every layout. -/
theorem clearCommandsClearTheirFlags : Obligations.ClearCommandsClearTheirFlags := fun _ =>
  ⟨⟨_, rfl, clearAll_iff.2 rfl⟩, ⟨_, rfl, clearIf_iff.2 rfl⟩⟩

/-- Settles O24: the address and data rows are one write of D, the frequency rows one write of F or
FLT. -/
theorem dataAndFrequencyWrites : Obligations.DataAndFrequencyWrites := by
  intro s a d
  have haddrW : addrByteOf a false = a.setWidth 8 <<< 1 := BitVec.or_zero
  refine ⟨?_, ⟨_, rfl, dWrite_writeD _ s, rfl⟩, ⟨_, rfl, dWrite_writeD d s, rfl⟩, ⟨_, rfl, rfl⟩,
    ⟨_, rfl, rfl⟩⟩
  rw [← haddrW]
  exact ⟨_, rfl, dWrite_writeD _ s, rfl⟩

/-- Settles O26: DUMMY_R is one read of D, and outside master-receive mode the read starts nothing. -/
theorem dataReadsStartReception : Obligations.DataReadsStartReception := by
  refine fun s => ⟨fun hr => ?dummy, fun hmode => ?outside⟩
  case dummy =>
    obtain ⟨u, hD, hu⟩ := readD_ok s
    have hact : (do let b ← readD; give (.byte b) : Act Unit) s =
        .ok () { u with out := .byte s.rxLatch } := by simp [act_bind, give, hD]
    exact ⟨_, congrArg Host.Outcome.next (runAct_ok (r := .handler) hr hact), u, hu, rfl⟩
  case outside =>
    have hmode' : (c1Tx s.params.layout s.c1 || !c1Mst s.params.layout s.c1) = true := by
      simpa [c1Tx, c1Mst, bitAt] using hmode
    refine ⟨_, if_pos hmode', ?_⟩
    simp only [runRead, readD, pendingAfterReadD_of_not_receiving hmode]

end Sys2Proof.Proofs

/-! PROOFS. Bus Acquisition (40_bus_acquisition.md): settles O53. First a control command as the
statements write it, then what a thread's phase leaves when it succeeds, then each phase's next state. -/

namespace Sys2Proof.Machine

open Sys2Proof.Claims

/-! ### A write of C1 as the statements write it (R228) -/

/-- The four changes of MST: START, RESTART or nothing, STOP, nothing. -/
theorem c1Write_writeC1 (v : Byte) (s : State) : C1Write v s (writeC1 v s) := by
  refine ⟨_, _, _, rfl, ?_⟩
  cases hold : s.c1.getLsbD s.params.layout.mst <;>
    cases hnew : v.getLsbD s.params.layout.mst <;>
    simp [busCondition, busyAfter, pendingAfter, c1Mst, c1Rsta, bitAt, hold, hnew]

theorem command_cmdStartByte (s : State) : Command startFields s (command cmdStartByte s) :=
  c1Write_writeC1 _ s

theorem command_cmdRestartByte (s : State) : Command restartFields s (command cmdRestartByte s) :=
  c1Write_writeC1 _ s

/-! ### A phase that succeeds -/

section Phase
variable {s w : State} {u : Nat}

/-- A thread that stands at its label takes the phase's effects (R33). -/
theorem coordStep_of_ok {p : Phase} {a : Act Unit} (h : AtPhase s u p) (ha : a s = .ok () w) :
    coordStep u p a s = w := by
  obtain ⟨hpc, hstop⟩ := h
  rw [coordStep, if_pos hpc, runAct_ok (r := .caller u) hstop ha]

theorem callerBecomes_of_callers (hw : w.callers = s.callers) :
    CallerBecomes s u (s.caller u) w :=
  ⟨caller_congr hw u, fun v _ => caller_congr hw v⟩

/-- A change of thread `u`'s record touches no other thread's. -/
theorem callerBecomes_updCaller {c : Caller} (h : CallerBecomes s u c w) (g : Caller → Caller) :
    CallerBecomes s u (g c) (w.updCaller u g) := by
  obtain ⟨hsame, hother⟩ := h
  exact ⟨by rw [caller_updCaller_same, hsame],
    fun v hv => (caller_updCaller_other w hv g).trans (hother v hv)⟩

/-- A phase that writes no thread's record but the label. -/
theorem callerBecomes_goto (hw : w.callers = s.callers) (q : Phase) :
    CallerBecomes s u { s.caller u with pc := q } (w.goto u q) :=
  callerBecomes_updCaller (callerBecomes_of_callers hw) _

/-! ### The phases of Bus Acquisition -/

/-- A_TEST reads C1 and keeps its MST bit in the thread's local (R111). -/
theorem exec_aTest_of_atPhase (h : AtPhase s u .aTest) :
    exec (.aTest u) s = .next
      ((({ s with cmds := s.cmds ++ [.read .c1 s.c1] } : State).updCaller u
        fun c => { c with mst := c1Mst s.params.layout s.c1 }).goto u
          (if c1Mst s.params.layout s.c1 then .aRestart else .aWaitfree)) :=
  congrArg Host.Outcome.next (coordStep_of_ok h rfl)

theorem exec_aRestart_of_atPhase (h : AtPhase s u .aRestart) :
    exec (.aRestart u) s = .next ((command cmdRestartByte s).goto u .aAddr) :=
  congrArg Host.Outcome.next (coordStep_of_ok h rfl)

theorem exec_aWaitfree_of_atPhase (h : AtPhase s u .aWaitfree) :
    exec (.aWaitfree u) s = .next (({ s with cmds := s.cmds ++ [.read .s s.status] } : State).goto u
      (if sBusy s.params.layout s.status then .aWaitfree else .aStart)) :=
  congrArg Host.Outcome.next (coordStep_of_ok h rfl)

theorem exec_aStart_of_atPhase (h : AtPhase s u .aStart) :
    exec (.aStart u) s = .next ((command cmdStartByte s).goto u .aAddr) :=
  congrArg Host.Outcome.next (coordStep_of_ok h rfl)

theorem exec_aAddr_of_atPhase {m : Message} (h : AtPhase s u .aAddr) (hm : Current s m) :
    exec (.aAddr u) s = .next ((writeD (addrByte m) s).goto u .tArm) := by
  have hact : aAddrAct u s = .ok () ((writeD (addrByte m) s).goto u .tArm) := by
    simp only [aAddrAct, act_bind, curMsg_of_current hm]
    rfl
  exact congrArg Host.Outcome.next (coordStep_of_ok h hact)

end Phase

end Sys2Proof.Machine

namespace Sys2Proof.Proofs

open Sys2Proof.Machine Sys2Proof.Claims

/-- Settles O53: each phase is one register access, and then the thread is at its next label. -/
theorem acquisitionClaimsTheBus : Obligations.AcquisitionClaimsTheBus := by
  refine fun s u => ⟨fun h => ?test, fun h => ?restart, fun h => ?waitfree, fun h => ?start,
    fun h m hm => ?addr⟩
  case test =>
    have hread : CallerBecomes s u (s.caller u) { s with cmds := s.cmds ++ [.read .c1 s.c1] } :=
      callerBecomes_of_callers rfl
    exact ⟨_, exec_aTest_of_atPhase h, callerBecomes_updCaller (callerBecomes_updCaller hread _) _, rfl⟩
  case restart =>
    exact ⟨_, exec_aRestart_of_atPhase h, callerBecomes_goto rfl _, _, command_cmdRestartByte s, rfl⟩
  case waitfree =>
    exact ⟨_, exec_aWaitfree_of_atPhase h,
      callerBecomes_goto (w := { s with cmds := s.cmds ++ [.read .s s.status] }) rfl _, rfl⟩
  case start =>
    exact ⟨_, exec_aStart_of_atPhase h, callerBecomes_goto rfl _, _, command_cmdStartByte s, rfl⟩
  case addr =>
    exact ⟨_, exec_aAddr_of_atPhase h hm, callerBecomes_goto rfl _, _, dWrite_writeD _ s, rfl⟩

end Sys2Proof.Proofs

/-! PROOFS. The Protocol State Machine (41_protocol_sm.md): settles O28, O29, O32, O33, O34, O36, O37,
O38, O39 and O35. First what a row, the entry and the delivery do when the body they run completes or
raises a fault, then each body of the handler as the statements write it, then the obligations. -/

namespace Sys2Proof.Machine

open Sys2Proof.Claims

/-! ### A row, the entry and the delivery run a body (R88, R130, R227) -/

section Rows
variable {s t : State} {i : Instr} {a : Act Unit}

/-- What follows the read of the current message is run on that message (R24). -/
theorem runAct_curMsg {m : Message} (hm : Current s m) (f : Message → Act Unit) :
    runAct .handler (curMsg >>= f) s = runAct .handler (f m) s := by
  simp [runAct, act_bind, curMsg_of_current hm]

/-- ISR_RX_DISPATCH is the receive branch on the current message (R140). -/
theorem exec_isrRxDispatch_of_current {m : Message} (hm : Current s m) :
    exec .isrRxDispatch s = .next (runAct .handler (rxBranch m) s) :=
  congrArg Host.Outcome.next (runAct_curMsg hm _)

/-- What the entry does, the delivery of a pending interrupt does (R130, R227). -/
theorem completes_isrEntry_and_irqDeliver {P : State → Prop} (h : Completes .isrEntry s P) :
    Completes .isrEntry s P ∧ (IrqPending s → Completes .irqDeliver s P) :=
  ⟨h, fun hp => by rw [Completes, exec_irqDeliver_of_pending hp]; exact h⟩

variable (hr : s.handlerStopped = false)
include hr

/-- A row whose action completes leaves what the action leaves. -/
theorem completes_of_ok {P : State → Prop} (hi : exec i s = .next (runAct .handler a s))
    (h : ∃ t, a s = .ok () t ∧ P t) : Completes i s P := by
  obtain ⟨t, ht, hP⟩ := h
  exact ⟨t, by rw [hi, runAct_ok (r := .handler) hr ht], hP⟩

/-- A row whose action raises a fault stops the handler (R40). -/
theorem exec_of_error {e : FaultReason} (hi : exec i s = .next (runAct .handler a s))
    (h : a s = .error e t) : exec i s = .next (takeFault .handler e t) := by
  rw [hi, runAct_error (r := .handler) hr h]

/-- An overrun after a read of D (R64). -/
theorem completes_of_overrun (hi : exec i s = .next (runAct .handler a s))
    (h : ∃ u, a s = .error .bufferOverrun u ∧ DRead s u) :
    Completes i s (fun t => ∃ u, DRead s u ∧ t = overrun u) := by
  obtain ⟨u, hu, hD⟩ := h
  exact ⟨_, exec_of_error hr hi hu, u, hD, rfl⟩

/-- The receive branch does not read the mode: it runs the body of a receive row that is taken, whatever
C1 holds (R140). -/
theorem exec_isrRxDispatch_of_rxMode {b : Branch} {v : Vec16} {m : Message}
    (hwf : s.params.layout.wf = true) (hm : Current s m) (hv : RxMode s.params.layout v)
    (h : RowTaken b v m s) : exec .isrRxDispatch s = .next (runAct .handler (branchBody b m) s) := by
  obtain ⟨hrx, -⟩ := (rxMode_iff hwf v).1 hv
  have hbody : rxBranch m s = branchBody b m s := by
    simpa [modeBranch, hrx] using (branchCond_and_modeBranch_of_rowTaken hwf h).2
  rw [exec_isrRxDispatch_of_current hm, runAct_congr (r := .handler) hr hr hbody]

end Rows

/-! ### The bodies that end the transaction (R131, R132, R134) -/

/-- A control command is one write of C1 of the byte that its fields name (R84). -/
theorem command_fieldsByte (fields : Layout → List Nat) (s : State) :
    Command fields s (command (fun L => fieldsByte (fields L)) s) := c1Write_writeC1 _ s

theorem guardBody_ok (s : State) :
    ∃ t, guardBody s = .ok () t ∧ ∃ u, ClearAll s u ∧ Command stopFields u t :=
  ⟨_, rfl, _, clearAll_iff.2 rfl, command_fieldsByte stopFields _⟩

theorem arblBody_ok (s : State) :
    ∃ t, arblBody s = .ok () t ∧ ∃ u, ClearAll s u ∧ EndsWith .arbitrationLost u t :=
  ⟨_, rfl, _, clearAll_iff.2 rfl, _, command_fieldsByte stopFields _, rfl⟩

theorem txNakBody_ok (s : State) : ∃ t, txNakBody s = .ok () t ∧ EndsWith .nak s t :=
  ⟨_, rfl, _, command_fieldsByte stopFields _, rfl⟩

/-- On a closed record, with the guard, the invocation is the guard's body (R131). -/
theorem isr_of_closed {s : State} (hg : s.params.lateGuard = true) (h : RecordClosed s) :
    isr s = guardBody (statusRead s) := by
  have hguard : guardHolds (statusRead s) = .ok true (statusRead s) := guardHolds_of_closed hg h
  have hread : readS s = .ok s.status (statusRead s) := rfl
  simp [isr, act_bind, hread, hguard]

/-- Past the guard, arbitration loss is tested before anything else (R132, R235). -/
theorem isr_of_lost {s : State} (hg : GuardPasses s) (harbl : sArbl s.params.layout s.status = true) :
    isr s = arblBody (statusRead s) := by
  have hguard : guardHolds (statusRead s) = .ok false (statusRead s) := guardHolds_of_passes hg
  have hread : readS s = .ok s.status (statusRead s) := rfl
  have harbl' : sArbl (statusRead s).params.layout s.status = true := harbl
  simp [isr, act_bind, hread, hguard, harbl']

/-- A NAK in transmit mode, after clear and mode read, whatever the message (R133, R134). -/
theorem clearMode_of_nak {s : State} {m : Message} {st : Byte} (hm : Current s m)
    (htx : c1Tx s.params.layout s.c1 = true) (hnak : sRxak s.params.layout st = true) :
    clearMode st s = txNakBody (modeRead s) := by
  rw [clearMode_of_current hm]
  simp [modeBranch, txBranch, htx, hnak]

/-! ### What a read of D starts after a command (R84, R230, R231) -/

section Reception
variable {s u t : State}

/-- In transmit mode a read of D starts nothing. -/
theorem dRead_pending_of_transmit (h : DRead u t) (htx : u.c1.getLsbD u.params.layout.tx = true) :
    t.pending = u.pending := by
  rw [h]
  exact if_neg fun ⟨_, hrx⟩ => Bool.false_ne_true (hrx.symm.trans htx)

/-- In master-receive mode it starts a reception. -/
theorem dRead_pending_of_receive (h : DRead u t) (hmst : u.c1.getLsbD u.params.layout.mst = true)
    (hrx : u.c1.getLsbD u.params.layout.tx = false) :
    t.pending = .rxByte (!u.c1.getLsbD u.params.layout.txak) := by
  rw [h]
  exact if_pos ⟨hmst, hrx⟩

/-- A command sets the bits of C1 that it names. -/
theorem getLsbD_command_c1 (fields : Layout → List Nat) (s : State) {p : Nat} (hp : p < 8) :
    (command (fun L => fieldsByte (fields L)) s).c1.getLsbD p =
      decide (p ∈ fields s.params.layout) := by
  rw [command, writeC1_c1, getLsbD_fieldsByte, decide_eq_true hp, Bool.true_and]

variable (hwf : s.params.layout.wf = true)
include hwf

/-- After CMD_TX a read of D starts no reception (R141). -/
theorem pending_of_cmdTx (hD : DRead (command cmdTxByte s) t) :
    t.pending = (command cmdTxByte s).pending := by
  obtain ⟨⟨-, -, -, htx, -⟩, -⟩ := layout_wf_fields hwf
  have htx1 := (getLsbD_command_c1 startFields s htx).trans (decide_eq_true (by simp [startFields]))
  exact dRead_pending_of_transmit hD htx1

/-- After a command to receive it starts one, acknowledged unless the command names TXAK. -/
theorem pending_of_receiveCommand {fields : Layout → List Nat}
    (hD : DRead (command (fun L => fieldsByte (fields L)) s) t)
    (hmst : s.params.layout.mst ∈ fields s.params.layout)
    (hrx : s.params.layout.tx ∉ fields s.params.layout) :
    t.pending = .rxByte (decide (s.params.layout.txak ∉ fields s.params.layout)) := by
  obtain ⟨⟨-, -, hmst8, htx8, htxak8, -⟩, -⟩ := layout_wf_fields hwf
  have hbit {p : Nat} (hp : p < 8) := getLsbD_command_c1 fields s hp
  rw [dRead_pending_of_receive hD ((hbit hmst8).trans (decide_eq_true hmst))
    ((hbit htx8).trans (decide_eq_false hrx)), decide_not]
  exact congrArg (fun b => Pending.rxByte !b) (hbit htxak8)

/-- CMD_RX_ACK acknowledges (R139). -/
theorem pending_of_cmdRxAck (hD : DRead (command cmdRxAckByte s) t) : t.pending = .rxByte true := by
  obtain ⟨-, ⟨-, htx⟩, ⟨-, htxak⟩, -⟩ := commandFields_of_wf hwf
  have hack : s.params.layout.txak ∉ rxAckFields s.params.layout :=
    fun h => htxak (List.mem_append_left [_, _] h)
  rw [pending_of_receiveCommand (fields := rxAckFields) hwf hD (by simp [rxAckFields]) htx,
    decide_eq_true hack]

/-- CMD_RX_NOACK does not (R138, R145). -/
theorem pending_of_cmdRxNoack (hD : DRead (command cmdRxNoackByte s) t) :
    t.pending = .rxByte false := by
  obtain ⟨-, ⟨-, htx⟩, ⟨-, htxak⟩, -⟩ := commandFields_of_wf hwf
  have hrx : s.params.layout.tx ∉ rxNoackFields s.params.layout := by
    simp only [List.mem_cons, List.not_mem_nil, or_false, not_or] at htx htxak
    simp [rxNoackFields, htx, Ne.symm htxak.2.2.2.1]
  rw [pending_of_receiveCommand (fields := rxNoackFields) hwf hD (by simp [rxNoackFields]) hrx]
  simp [rxNoackFields]

end Reception

/-- The set-up of a read: a command, then one dummy read (R138, R139). -/
theorem readSetUp_ok (fields : Layout → List Nat) (s : State) {ack : Bool}
    (hack : ∀ {t}, DRead (command (fun L => fieldsByte (fields L)) s) t → t.pending = .rxByte ack) :
    ∃ t, (do change (command fun L => fieldsByte (fields L)); let _ ← readD : Act Unit) s = .ok () t ∧
      (∃ u, Command fields s u ∧ DRead u t) ∧ t.pending = .rxByte ack := by
  obtain ⟨t, hread, hD⟩ := readD_ok (command (fun L => fieldsByte (fields L)) s)
  exact ⟨t, by simp [act_map, act_bind, hread], ⟨_, command_fieldsByte fields s, hD⟩, hack hD⟩

/-! ### A received byte is consumed (R144, R145, R146) -/

section Consume
variable {s t : State} {m : Message} {k : Int}

theorem not_inBuffer_iff : inBuffer m k = false ↔ k < 0 ∨ m.length ≤ k := by
  rw [← Bool.not_eq_true, inBuffer_iff]
  omega

theorem stored_memWrite (a : Nat) (v : Byte) (s : State) :
    Stored a v s { s with mem := memWrite a v s.mem } :=
  ⟨rfl, memRead_memWrite_same .., fun _ hb => memRead_memWrite_other hb ..⟩

/-- Inside the buffer the byte is stored and the cursor advances. -/
theorem consumeByte_consumes (hk : s.ts.read = some k) (hin : inBuffer m k = true) :
    ∃ t, consumeByte m s = .ok () t ∧ Consumes m k s t := by
  obtain ⟨u, hread, hD⟩ := readD_ok s
  have hk' : u.ts.read = some k := by rw [dRead_ts hD, hk]
  have hdata := dataRead_in hread hk' hin
  have hk'' := need_some (f := (·.read))
    (s := { u with mem := memWrite (bufAddr m k) s.rxLatch u.mem }) hk'
  exact ⟨_, by simp [consumeByte, setTs, act_bind, hdata, hk''], u, _, hD,
    stored_memWrite (bufAddr m k) s.rxLatch u, rfl⟩

/-- Outside it the read of D stands. -/
theorem consumeByte_overruns (hk : s.ts.read = some k) (hout : inBuffer m k = false) :
    ∃ u, consumeByte m s = .error .bufferOverrun u ∧ DRead s u := by
  obtain ⟨u, hread, hD⟩ := readD_ok s
  have hdata := dataRead_out hread (by rw [dRead_ts hD, hk]) hout
  exact ⟨u, by simp [consumeByte, act_bind, hdata], hD⟩

theorem consumes_ts (h : Consumes m k s t) : t.ts = { s.ts with read := some (k + 1) } := by
  obtain ⟨u, w, hD, ⟨hw, -⟩, rfl⟩ := h
  rw [hw, ← dRead_ts hD]

/-- What is in flight once a byte is consumed is what the read of D left there. -/
theorem consumes_pending (h : Consumes m k s t) : ∃ u, DRead s u ∧ t.pending = u.pending := by
  obtain ⟨u, w, hD, ⟨hw, -⟩, rfl⟩ := h
  exact ⟨u, hD, by rw [hw]⟩

end Consume

/-! ### The chain is walked (R160 to R167) -/

section Walk
variable {s t : State} {msgs : List Message} {count idx n k : Int} {restart : Bool}

theorem current_of_chain (h : Chain s msgs count idx n restart) : Current s (msgEntry msgs idx.toNat) :=
  ⟨msgs, count, idx, h.msgs_eq, h.count_eq, h.idx_eq, h.low, h.high, rfl⟩

/-- Of the record as the walker finds it, the read cursor is no part. -/
theorem chain_of_ts (h : Chain s msgs count idx n restart) {r : Option Int}
    (hts : t.ts = { s.ts with read := r }) : Chain t msgs count idx n restart :=
  { h with
    msgs_eq := by rw [hts]; exact h.msgs_eq
    count_eq := by rw [hts]; exact h.count_eq
    idx_eq := by rw [hts]; exact h.idx_eq
    nmsg_eq := by rw [hts]; exact h.nmsg_eq
    restart_eq := by rw [hts]; exact h.restart_eq }

/-- NEXTMSG walks: it raises no fault on a chain. -/
theorem nextmsgAct_walks (h : Chain s msgs count idx n restart) :
    ∃ o t, nextmsgAct s = .ok o t ∧ Walks msgs count idx n restart s t o := by
  by_cases hmore : 1 < n
  · cases restart with
    | true => exact ⟨_, _, nextmsgAct_signals h hmore, .inr (.inl ⟨hmore, rfl, rfl, rfl⟩)⟩
    | false => exact ⟨_, _, nextmsgAct_merges h hmore, .inr (.inr ⟨hmore, rfl, rfl, rfl⟩)⟩
  · have hlast := not_lt.1 hmore
    exact ⟨_, _, nextmsgAct_of_last h.nmsg_eq hlast,
      .inl ⟨hlast, rfl, _, command_fieldsByte stopFields _, rfl⟩⟩

/-- The tail that the last-byte rows share: the byte is consumed, then the chain is walked (R144). -/
theorem rxLastTailBody_ok (h : Chain s msgs count idx n restart) (hk : s.ts.read = some k)
    {m : Message} (hin : inBuffer m k = true) :
    ∃ t, rxLastTailBody m s = .ok () t ∧
      ∃ w o, Consumes m k s w ∧ Walks msgs count idx n restart w t o := by
  obtain ⟨w, hw, hcons⟩ := consumeByte_consumes hk hin
  obtain ⟨o, t, ht, hwalk⟩ := nextmsgAct_walks (chain_of_ts h (consumes_ts hcons))
  exact ⟨t, by simp [rxLastTailBody, act_bind, act_map, hw, ht], w, o, hcons, hwalk⟩

theorem rxLastTailBody_overruns (hk : s.ts.read = some k) {m : Message} (hout : inBuffer m k = false) :
    ∃ u, rxLastTailBody m s = .error .bufferOverrun u ∧ DRead s u := by
  obtain ⟨u, hu, hD⟩ := consumeByte_overruns hk hout
  exact ⟨u, by simp [rxLastTailBody, act_bind, hu], hD⟩

end Walk

/-! ### The bodies that send a byte (R135, R136, R137) -/

section Send
variable {s : State} {m : Message} {w : Int}

/-- The byte at the write cursor is sent and the cursor advances. -/
theorem txWrByteBody_sends (hw : s.ts.written = some w) (hin : inBuffer m w = true) :
    ∃ t, txWrByteBody m s = .ok () t ∧ ∃ u, DWrite (memRead (m.buffer + w.toNat) s.mem) s u ∧
      t = { u with ts := { u.ts with written := some (w + 1) } } :=
  ⟨_, txWrByteBody_ok hw hin, _, dWrite_writeD _ s, rfl⟩

theorem txWrByteBody_overruns (hw : s.ts.written = some w) (hout : inBuffer m w = false) :
    txWrByteBody m s = .error .bufferOverrun s := by
  simp [txWrByteBody, act_bind, need_some (f := (·.written)) hw, bufRead_out hout]

/-- The first byte of the current message is sent, with no address byte. -/
theorem txWrMergeBody_sends (hm : Current s m) (hlen : 0 < m.length) :
    ∃ t, txWrMergeBody s = .ok () t ∧ ∃ u, DWrite (memRead m.buffer s.mem) s u ∧
      t = { u with ts := { u.ts with written := some 1 } } :=
  ⟨_, txWrMergeBody_ok (curMsg_of_current hm) (inBuffer_iff.2 ⟨le_refl 0, hlen⟩), _,
    dWrite_writeD _ s, rfl⟩

theorem txWrMergeBody_overruns (hm : Current s m) (hlen : m.length ≤ 0) :
    txWrMergeBody s = .error .bufferOverrun s := by
  simp [txWrMergeBody, act_bind, curMsg_of_current hm,
    bufRead_out (not_inBuffer_iff.2 (.inr hlen))]

variable {msgs : List Message} {count idx n : Int} {restart : Bool}

/-- With no merge the finished write is the walk alone. -/
theorem txWrDoneBody_walks (h : Chain s msgs count idx n restart) (hor : n ≤ 1 ∨ restart = true) :
    ∃ t, txWrDoneBody s = .ok () t ∧ ∃ o, Walks msgs count idx n restart s t o := by
  obtain ⟨o, t, ht, hwalk⟩ := nextmsgAct_walks h
  have ho : o ≠ .advancedMerged := by
    rcases hwalk with ⟨-, rfl, -⟩ | ⟨-, -, rfl, -⟩ | ⟨hmore, rfl, -⟩
    · decide
    · decide
    · rcases hor with hlast | hflag
      · omega
      · cases hflag
  exact ⟨t, by simp [txWrDoneBody, act_bind, act_pure, ht, ho], o, hwalk⟩

/-- A merge makes the next message current and goes on to its first byte. -/
theorem txWrDoneBody_merges (h : Chain s msgs count idx n false) (hmore : 1 < n) :
    ∃ u, Walks msgs count idx n false s u .advancedMerged ∧ u.mem = s.mem ∧
      Current u (msgEntry msgs (idx + 1).toNat) ∧ txWrDoneBody s = txWrMergeBody u := by
  have hlow := h.low
  refine ⟨_, .inr (.inr ⟨hmore, rfl, rfl, rfl⟩), rfl, ?_, by
    simp [txWrDoneBody, act_bind, nextmsgAct_merges h hmore]⟩
  exact ⟨msgs, count, idx + 1, h.msgs_eq, h.count_eq, rfl, by omega, h.more hmore, rfl⟩

end Send

/-! ### The last byte (R140 to R143) -/

theorem inBuffer_last {m : Message} (h : 0 < m.length) : inBuffer m (m.length - 1) = true :=
  inBuffer_iff.2 ⟨by omega, by omega⟩

/-- A row whose condition faults faults. -/
theorem branchAct_of_cond_error {L : Layout} {b : Branch} {v : Vec16} {m : Message} {s : State}
    {e : FaultReason} (hmatch : branchMatches L b v = true) (hm : Current s m)
    (hcond : branchCond b m s = .error e s) : branchAct L b v s = .error e s := by
  simp [branchAct, hmatch, act_bind, curMsg_of_current hm, hcond]

/-- With no next message the rows of a merge cannot tell its length. -/
theorem noNextMessage_of_last {s : State} {msgs : List Message} {count idx n : Int}
    (h : Chain s msgs count idx n false) (hlast : count ≤ idx + 1)
    {m : Message} (hi : s.ts.read = some (m.length - 1)) :
    rxBranch m s = .error .noNextMessage s ∧
      ∀ b, b = .rxLastMerge1 ∨ b = .rxLastMerge → branchCond b m s = .error .noNextMessage s := by
  have hlow := h.low
  have hnext := msgAt_beyond h.count_eq (show 0 < idx + 1 by omega) hlast
  have hread := need_some (f := (·.read)) hi
  have hrestart := need_some (f := (·.restart)) h.restart_eq
  have hidx := need_some (f := (·.idx)) h.idx_eq
  refine ⟨by simp [rxBranch, act_bind, hread, hrestart, hidx, hnext], ?_⟩
  rintro b (rfl | rfl) <;> simp [branchCond, act_bind, act_map, hread, hrestart, hidx, hnext]

end Sys2Proof.Machine

namespace Sys2Proof.Proofs

open Sys2Proof.Machine Sys2Proof.Claims

/-- Settles O28: the guard holds before and after the read of S, and its body is the row's. -/
theorem lateInterruptOnlyStops : Obligations.LateInterruptOnlyStops := by
  refine fun s hr hg hclosed => ⟨fun v => ?row,
    completes_isrEntry_and_irqDeliver (completes_of_ok hr rfl ?entry)⟩
  case row =>
    refine completes_of_ok (a := guardBody) hr ?_ (guardBody_ok s)
    refine congrArg Host.Outcome.next (runAct_congr (r := .handler) hr hr ?_)
    simp [branchMatches_guard, act_bind, guardHolds_of_closed hg hclosed]
  case entry =>
    rw [isr_of_closed hg hclosed]
    exact guardBody_ok _

/-- Settles O29: the row tests ARBL alone, and past the guard the invocation tests it first. -/
theorem arbitrationLossEndsTheTransaction : Obligations.ArbitrationLossEndsTheTransaction := by
  refine fun s hr hwf => ⟨fun v hv => ?row, fun hg harbl =>
    completes_isrEntry_and_irqDeliver (completes_of_ok hr rfl ?entry)⟩
  case row =>
    refine completes_of_ok (a := arblBody) hr ?_ (arblBody_ok s)
    simp [exec, execIsrArbl, (branchMatches_arbl_iff hwf v).2 hv]
  case entry =>
    rw [isr_of_lost hg harbl]
    exact arblBody_ok _

/-- Settles O32: the row reads no message, and after clear and mode read RXAK is tested first. -/
theorem nakEndsTheTransaction : Obligations.NakEndsTheTransaction := by
  refine fun s hr hwf => ⟨fun v hv => ?row, fun m st hm htx hnak => ?clearMode⟩
  case row =>
    refine completes_of_ok (a := txNakBody) hr ?_ (txNakBody_ok s)
    simp [exec, execIsrTxNak, (branchMatches_txNak_iff hwf v).2 hv]
  case clearMode =>
    obtain ⟨t, ht, hend⟩ := txNakBody_ok (modeRead s)
    exact completes_of_ok hr rfl
      ⟨t, (clearMode_of_nak hm htx hnak).trans ht, _, clearIf_iff.2 rfl, hend⟩

/-- Settles O33: the row is taken, and its body sends the byte or overruns. -/
theorem writeByteIsPushed : Obligations.WriteByteIsPushed := by
  intro s v m w hr hwf hv hm hread hw hne
  have hrow := exec_branchInstr_of_rowTaken (b := .txWrByte) hwf hm ⟨hv, hread, w, hw, hne⟩
  refine ⟨fun hlow hhigh => ?inside, fun hout => ?outside⟩
  case inside =>
    exact completes_of_ok hr hrow (txWrByteBody_sends hw (inBuffer_iff.2 ⟨hlow, hhigh⟩))
  case outside =>
    have hout' := not_inBuffer_iff.2 (hout.imp_right le_of_lt)
    exact exec_of_error hr hrow (txWrByteBody_overruns hw hout')

/-- Settles O34: the row is taken, its body walks, and only a merge goes on to the next message. -/
theorem finishedWriteWalksTheChain : Obligations.FinishedWriteWalksTheChain := by
  intro s v msgs count idx n restart hr hwf hv hchain hread hw
  have hrow := exec_branchInstr_of_rowTaken (b := .txWrDone) hwf (current_of_chain hchain)
    ⟨hv, hread, hw⟩
  refine ⟨fun hor => completes_of_ok hr hrow (txWrDoneBody_walks hchain hor), ?merge, ?empty⟩
  case merge =>
    rintro hmore rfl hlen
    obtain ⟨u, hwalk, hmem, hnext, hbody⟩ := txWrDoneBody_merges hchain hmore
    obtain ⟨t, ht, w, hsend, hts⟩ := txWrMergeBody_sends hnext hlen
    rw [hmem] at hsend
    exact completes_of_ok hr hrow ⟨t, hbody.trans ht, u, w, hwalk, hsend, hts⟩
  case empty =>
    rintro hmore rfl hlen
    obtain ⟨u, hwalk, -, hnext, hbody⟩ := txWrDoneBody_merges hchain hmore
    exact ⟨_, exec_of_error hr hrow (hbody.trans (txWrMergeBody_overruns hnext hlen)), u, hwalk, rfl⟩

/-- Settles O36: both rows are a command and a dummy read, whose acknowledgement the command gives. -/
theorem readSetUpStagesTheAcknowledgement : Obligations.ReadSetUpStagesTheAcknowledgement := by
  refine fun s v m hr hwf hv hm hread => ⟨fun hlen hrestart => ?noack, fun hor => ?ack⟩
  case noack =>
    exact completes_of_ok hr
      (exec_branchInstr_of_rowTaken (b := .txRdNoack) hwf hm ⟨hv, hread, hlen, hrestart⟩)
      (readSetUp_ok rxNoackFields s (pending_of_cmdRxNoack hwf))
  case ack =>
    exact completes_of_ok hr (exec_branchInstr_of_rowTaken (b := .txRdAck) hwf hm ⟨hv, hread, hor⟩)
      (readSetUp_ok rxAckFields s (pending_of_cmdRxAck hwf))

/-- Settles O37: CMD_TX, then the shared tail, whose read of D starts nothing. -/
theorem lastByteBeforeRestart : Obligations.LastByteBeforeRestart := by
  intro s v msgs count idx n hr hwf hv hchain hi hlen
  have hrow := exec_branchInstr_of_rowTaken (b := .rxLastRestart) hwf (current_of_chain hchain)
    ⟨hv, hi, hchain.restart_eq⟩
  have hchain' : Chain (command cmdTxByte s) msgs count idx n true := chain_of_ts hchain rfl
  obtain ⟨t, ht, w, o, hcons, hwalk⟩ := rxLastTailBody_ok hchain' hi (inBuffer_last hlen)
  obtain ⟨u, hD, hpending⟩ := consumes_pending hcons
  exact completes_of_ok hr hrow ⟨t, ht, _, w, o, command_fieldsByte startFields s,
    hpending.trans (pending_of_cmdTx hwf hD), hcons, hwalk⟩

/-- Settles O38: each row of a merge is the shared tail, after CMD_RX_NOACK or nothing; with no next
message its condition faults, and the tail overruns outside the buffer. -/
theorem lastByteBeforeMerge : Obligations.LastByteBeforeMerge := by
  refine ⟨fun s v msgs count idx n hr hwf hv hchain hi hlen => ?rows,
    fun s msgs count idx n restart k hr hchain hk => ?tail⟩
  case rows =>
    have hm := current_of_chain hchain
    have hlow := hchain.low
    have hin := inBuffer_last hlen
    have hnext (hmore : idx + 1 < count) : msgAt (idx + 1) s = .ok _ s :=
      msgAt_ok hchain.msgs_eq hchain.count_eq (by omega) hmore
    refine ⟨fun hmore hone => ?single, fun hmore hlong => ?longer, fun hlast => ?missing⟩
    case single =>
      have hrow := exec_branchInstr_of_rowTaken (b := .rxLastMerge1) hwf hm
        ⟨hv, hi, hchain.restart_eq, idx, _, hchain.idx_eq, hnext hmore, hone⟩
      have hchain' : Chain (command cmdRxNoackByte s) msgs count idx n false := chain_of_ts hchain rfl
      obtain ⟨t, ht, w, o, hcons, hwalk⟩ := rxLastTailBody_ok hchain' hi hin
      exact completes_of_ok hr hrow
        ⟨t, ht, _, w, o, command_fieldsByte rxNoackFields s, hcons, hwalk⟩
    case longer =>
      have hrow := exec_branchInstr_of_rowTaken (b := .rxLastMerge) hwf hm
        ⟨hv, hi, hchain.restart_eq, idx, _, hchain.idx_eq, hnext hmore, hlong⟩
      exact completes_of_ok hr hrow (rxLastTailBody_ok hchain hi hin)
    case missing =>
      obtain ⟨hbranch, hcond⟩ := noNextMessage_of_last hchain hlast hi
      have hmatch {b : Branch} (hb : b ∈ rxRows) := (branchMatches_rxMode_iff hwf v hb).2 hv
      rintro i (rfl | rfl | rfl)
      · exact exec_of_error hr rfl
          (branchAct_of_cond_error (hmatch (by decide)) hm (hcond _ (.inl rfl)))
      · exact exec_of_error hr rfl
          (branchAct_of_cond_error (hmatch (by decide)) hm (hcond _ (.inr rfl)))
      · exact exec_of_error hr (exec_isrRxDispatch_of_current hm) hbranch
  case tail =>
    have hrow : exec .isrRxLastTail s = .next (runAct .handler (rxLastTailBody _) s) :=
      congrArg Host.Outcome.next (runAct_curMsg (current_of_chain hchain) _)
    exact ⟨fun hlow hhigh =>
        completes_of_ok hr hrow (rxLastTailBody_ok hchain hk (inBuffer_iff.2 ⟨hlow, hhigh⟩)),
      fun hout => completes_of_overrun hr hrow (rxLastTailBody_overruns hk (not_inBuffer_iff.2 hout))⟩

/-- Settles O39: every row consumes the byte, the second-to-last before a restart after CMD_RX_NOACK. -/
theorem otherReceivedBytesAreStored : Obligations.OtherReceivedBytesAreStored := by
  intro s v m k hr hwf hv hm hk hlow
  refine ⟨fun hpen hrestart => ?penult, fun hhigh hor => ?byte, fun hout => ?noRoom⟩
  case penult =>
    have hrow := exec_branchInstr_of_rowTaken (b := .rxPenultRestart) hwf hm
      ⟨hv, hpen ▸ hk, hrestart⟩
    obtain ⟨t, ht, hcons⟩ := consumeByte_consumes (s := command cmdRxNoackByte s) hk
      (inBuffer_iff (m := m).2 ⟨hlow, by omega⟩)
    obtain ⟨u, hD, hpending⟩ := consumes_pending hcons
    exact completes_of_ok hr hrow ⟨t, ht, ⟨_, command_fieldsByte rxNoackFields s, hcons⟩,
      hpending.trans (pending_of_cmdRxNoack hwf hD)⟩
  case byte =>
    have htaken : RowTaken .rxByte v m s := ⟨hv, k, hk, by omega, hor⟩
    have hbody := consumeByte_consumes hk (inBuffer_iff (m := m).2 ⟨hlow, by omega⟩)
    exact ⟨completes_of_ok hr (exec_branchInstr_of_rowTaken hwf hm htaken) hbody,
      completes_of_ok hr (exec_isrRxDispatch_of_rxMode hr hwf hm hv htaken) hbody⟩
  case noRoom =>
    have htaken : RowTaken .rxByte v m s := ⟨hv, k, hk, by omega, .inl (by omega)⟩
    have hbody := consumeByte_overruns hk (not_inBuffer_iff.2 (.inr hout))
    exact ⟨completes_of_overrun hr (exec_branchInstr_of_rowTaken hwf hm htaken) hbody,
      completes_of_overrun hr (exec_isrRxDispatch_of_rxMode hr hwf hm hv htaken) hbody⟩

/-- Settles O35: the row's pattern holds, and its body sends the first byte or overruns. -/
theorem mergedWritePushesItsFirstByte : Obligations.MergedWritePushesItsFirstByte := by
  intro s v m hr hwf hv hm
  have hmatch := (branchMatches_txAcked_iff (b := .txWrMerge) hwf v (by decide)).2 hv
  have hrow : exec (.isrTxWrMerge v) s = .next (runAct .handler txWrMergeBody s) := by
    simp [exec, execIsrTxWrMerge, hmatch]
  exact ⟨fun hlen => completes_of_ok hr hrow (txWrMergeBody_sends hm hlen),
    fun hlen => exec_of_error hr hrow (txWrMergeBody_overruns hm hlen)⟩

end Sys2Proof.Proofs

/-! PROOFS. The Message Chain Walker (42_chain_walker.md): settles O40, O41 and O42. First a row that
gives its outcome, then the recomputation and the advances on any record, then the obligations. -/

namespace Sys2Proof.Machine

open Sys2Proof.Claims

/-! ### A walker row gives its outcome -/

/-- A row that walks leaves what the walk leaves, with the outcome given. -/
theorem completes_of_outcome {s : State} {i : Instr} {a : Act WalkOutcome} {P : State → Prop}
    (hr : s.handlerStopped = false)
    (hi : exec i s = .next (runAct .handler (do let o ← a; give (.outcome o)) s))
    (h : ∃ o t, a s = .ok o t ∧ P { t with out := .outcome o }) : Completes i s P := by
  obtain ⟨o, t, ht, hP⟩ := h
  exact completes_of_ok hr hi ⟨_, by rw [act_bind, ht]; rfl, hP⟩

/-! ### The recomputation and the advances, whatever the restart flag held (R161, R162, R163) -/

/-- The restart field that RESTART RECOMPUTE leaves at message `i`, unset before or not (R163). -/
def recomputedField (mode : RestartMode) (msgs : List Message) (count i : Int)
    (old : Option Bool) : Option Bool :=
  match mode with
  | .perTransition => some (restartValue msgs count i)
  | .perStep => old

/-- The record with the next message current, at its first byte (R161, R162). -/
def nextMessageTs (ts : TransferState) (idx : Int) : TransferState :=
  { ts with idx := some (idx + 1), written := some 0, read := some 0 }

section Advance
variable {s : State} {msgs : List Message} {count idx : Int}

theorem restartRecomputeAct_of_perStep (hmode : s.params.restartMode = .perStep) :
    restartRecomputeAct s = .ok () s := by
  simp [restartRecomputeAct, look, act_bind, act_pure, hmode]

/-- At any message of a set chain, the last one too, the recomputation raises no fault. -/
theorem restartRecomputeAct_of_idx (hm : s.ts.msgs = some msgs) (hc : s.ts.count = some count)
    (hi : s.ts.idx = some idx) (hlow : 0 ≤ idx) :
    restartRecomputeAct s = .ok () { s with ts := { s.ts with
      restart := recomputedField s.params.restartMode msgs count idx s.ts.restart } } := by
  cases hmode : s.params.restartMode with
  | perTransition =>
    simp [restartRecomputeAct, act_bind, hmode, need_some (f := (·.idx)) hi,
      restartForAct_ok hm hc (.inl hlow), setTs, recomputedField]
  | perStep => exact restartRecomputeAct_of_perStep hmode

theorem nextMessageAct_ok (hi : s.ts.idx = some idx) :
    nextMessageAct s = .ok () { s with ts := nextMessageTs s.ts idx } := by
  simp [nextMessageAct, act_bind, need_some (f := (·.idx)) hi, setTs, nextMessageTs]

/-- ADVANCE with signal recomputes after the signal (R161). -/
theorem advanceSignalAct_of_recompute {t : State} (hi : s.ts.idx = some idx)
    (h : restartRecomputeAct (signalDone { s with ts := nextMessageTs s.ts idx }) = .ok () t) :
    advanceSignalAct s = .ok .advancedSignalled t := by
  simp [advanceSignalAct, act_bind, act_map, nextMessageAct_ok hi, signalAct, h]

/-- ADVANCE without signal is the cursor advance and the recomputation (R162). -/
theorem advanceMergedAct_of_recompute {t : State} (hi : s.ts.idx = some idx)
    (h : restartRecomputeAct { s with ts := nextMessageTs s.ts idx } = .ok () t) :
    advanceMergedAct s = .ok .advancedMerged t := by
  simp [advanceMergedAct, act_bind, act_map, nextMessageAct_ok hi, h]

end Advance

end Sys2Proof.Machine

namespace Sys2Proof.Proofs

open Sys2Proof.Machine Sys2Proof.Claims

/-- Settles O40: NEXTMSG walks the chain without a fault and gives its outcome. -/
theorem walkerHasThreeOutcomes : Obligations.WalkerHasThreeOutcomes := by
  intro s msgs count idx n restart hr hchain
  obtain ⟨o, u, hu, hwalk⟩ := nextmsgAct_walks hchain
  exact completes_of_outcome hr rfl ⟨o, u, hu, u, o, hwalk, rfl⟩

/-- Settles O41: both advances end in the recomputation, which reads the chain alone and in PER_STEP
nothing at all. -/
theorem walkerAdvances : Obligations.WalkerAdvances := by
  refine ⟨?advances, fun s hr => ⟨fun hmode => ?perStep, ?terminate⟩⟩
  case advances =>
    rintro s msgs count idx hr hm hc hi hlow ts rfl
    have hnext : 0 ≤ idx + 1 := by omega
    refine ⟨?signal, ?merged, fun hmode => ?perTransition⟩
    case signal =>
      exact completes_of_outcome hr rfl ⟨_, _,
        advanceSignalAct_of_recompute hi (restartRecomputeAct_of_idx hm hc rfl hnext), rfl⟩
    case merged =>
      exact completes_of_outcome hr rfl ⟨_, _,
        advanceMergedAct_of_recompute hi (restartRecomputeAct_of_idx hm hc rfl hnext), rfl⟩
    case perTransition =>
      exact completes_of_ok hr rfl
        ⟨_, restartRecomputeAct_of_idx hm hc hi hlow, by rw [hmode]; rfl⟩
  case perStep => exact completes_of_ok hr rfl ⟨s, restartRecomputeAct_of_perStep hmode, rfl⟩
  case terminate =>
    exact completes_of_outcome hr rfl ⟨_, _, rfl, _, command_fieldsByte stopFields s, rfl⟩

/-- Settles O42: STOP is the command and then Signal, which writes `done_gen` alone. -/
theorem stopWritesAndSignals : Obligations.StopWritesAndSignals := fun s =>
  ⟨fun hr => completes_of_ok hr rfl ⟨_, rfl, _, command_fieldsByte stopFields s, rfl⟩, _, rfl, rfl⟩

end Sys2Proof.Proofs

/-! PROOFS. The Transfer Coordinator (43_coordinator.md): settles O43, O44, O45, O46, O47, O48, O49, O50,
O51 and O52. First the row of a phase that goes on, then what each phase reads of the record, then the
operations, then the obligations. -/

namespace Sys2Proof.Machine

open Sys2Proof.Claims

/-! ### A phase row at its label (R33) -/

section PhaseRows
variable {s w : State} {u : Nat} {i : Instr} {p q : Phase}

/-- An initialisation that is neither refused nor of an empty chain resets the record (R173). -/
theorem tInitAct_ok (hok : (callChain (s.caller u).msgs (s.caller u).count).any unsupported = false)
    (hpos : 1 ≤ (s.caller u).count) :
    tInitAct u s = .ok ()
      (({ s with ts := initTs (s.caller u).msgs (s.caller u).count s.ts } : State).goto u .tFreq) := by
  simp [tInitAct, act_bind, setTs, setPc, State.goto, hok, not_lt.2 hpos, -List.any_eq_true]

theorem tInitAct_of_refused
    (h : (callChain (s.caller u).msgs (s.caller u).count).any unsupported = true) :
    tInitAct u s = .ok () { s with refused := true } := by
  simp [tInitAct, act_bind, refuse, h, -List.any_eq_true]

/-- A chain without messages holds none that is refused. -/
theorem tInitAct_of_empty (h : (s.caller u).count < 1) : tInitAct u s = .error .emptyChain s := by
  have hnone : (s.caller u).count.toNat = 0 := by omega
  simp [tInitAct, act_bind, callChain, hnone, h]

/-- A thread at the label of a phase that goes on takes the phase's effects and the next label. -/
theorem exec_of_phaseGoes (hi : phaseRow i = some (u, p)) (h : AtPhase s u p)
    (hgo : PhaseGoes u s p q w) : exec i s = .next (w.goto u q) := by
  have hrow := phaseInstr_of_phaseRow hi
  cases hgo <;> cases hrow <;> refine congrArg Host.Outcome.next (coordStep_of_ok h ?_)
  case lock hfree => simp [tLockAct, act_bind, setPc, State.goto, hfree]
  case init hok hpos => exact tInitAct_ok hok hpos
  case freq m hm => simp [tFreqAct, act_bind, setFrequencyAct_ok, setPc, State.goto, hm]
  case loop more hmore => simp [tLoopAct, act_bind, setPc, State.goto, hmore]
  case step k r hk hr =>
    have hk' := need_some (f := (·.idx)) (s := opened s) hk
    simp only [tStepAct_eq, act_bind, hk', hr]
    rfl
  case acq m hm => simp [tAcqAct, act_bind, setPc, State.goto, hm]
  case addr m hm => simp [aAddrAct, act_bind, setPc, State.goto, hm]
  case wait hdone => simp [tWaitAct, act_bind, setPc, State.goto, hdone]
  case result st hst =>
    simp [tResultAct, act_bind, setPc, State.goto, need_some (f := (·.status)) hst]
  all_goals rfl

/-! ### What the phases read -/

/-- T_LOOP's condition, read from left to right (R177). -/
theorem loopGoesOn_eq {n : Int} {st : Status} (hn : s.ts.nmsg = some n) (hst : s.ts.status = some st) :
    loopGoesOn s = .ok (decide (0 < n ∧ st = .ok)) s := by
  by_cases h : 0 < n
  · simp [loopGoesOn, act_bind, act_map, need_some (f := (·.nmsg)) hn, h,
      need_some (f := (·.status)) hst, beq_eq_decide]
  · simp [loopGoesOn, act_bind, act_pure, need_some (f := (·.nmsg)) hn, h]

theorem unsupported_iff {m : Message} :
    unsupported m = true ↔ m.length < 0 ∨ m.otherFlag = true ∨ m.extended = true := by
  simp [unsupported, or_assoc]

/-- `messages[0 .. count-1]` holds the entries at the indices below the count (R173). -/
theorem callChain_any_iff {msgs : List Message} {count : Int} {f : Message → Bool} :
    (callChain msgs count).any f = true ↔ ∃ k : Nat, (k : Int) < count ∧ f (msgEntry msgs k) = true := by
  simp [callChain, Int.lt_toNat]

/-- The merge test succeeds on all four conditions (R179). -/
theorem restartValue_eq_false_iff {msgs : List Message} {count k : Int} :
    restartValue msgs count k = false ↔ k + 1 < count ∧
      (msgEntry msgs (k + 1).toNat).norestart = true ∧
      (msgEntry msgs (k + 1).toNat).addr = (msgEntry msgs k.toNat).addr ∧
      (msgEntry msgs (k + 1).toNat).frequency = (msgEntry msgs k.toNat).frequency ∧
      (msgEntry msgs (k + 1).toNat).read = (msgEntry msgs k.toNat).read := by
  by_cases h : k + 1 < count <;> simp [restartValue, mergeable, h, and_assoc]

/-- Before the chain the merge test reads `Msg(i)` first (R179, R65). -/
theorem restartForAct_before {count k : Int} (hc : s.ts.count = some count) (hk : k < 0)
    (hnext : k + 1 < count) : restartForAct k s = .error .noNextMessage s := by
  simp [restartForAct, act_bind, need_some (f := (·.count)) hc, hnext, msgAt_before hk]

/-- RESTART_FOR shows the value that restart_for(i) answers (R179). -/
theorem exec_restartFor_of_ok {r : Runner} {k : Int} {b : Bool} (hr : stoppedBy r s = false)
    (h : restartForAct k s = .ok b s) : exec (.restartFor r k) s = .next { s with out := .bool b } :=
  congrArg Host.Outcome.next (runAct_ok hr (by simp [act_bind, give, h]))

theorem exec_restartFor_of_error {r : Runner} {k : Int} {e : FaultReason} (hr : stoppedBy r s = false)
    (h : restartForAct k s = .error e s) : exec (.restartFor r k) s = .next (takeFault r e s) :=
  congrArg Host.Outcome.next (runAct_error hr (by simp [act_bind, h]))

/-! ### SetFrequency (R175) -/

theorem exec_setFrequency (hz : Nat) (s : State) : exec (.setFrequency hz) s = .next (programmed hz s) := by
  simp [exec, execSetFrequency, setFrequencyAct_ok]

theorem programmed_of_cached {hz : Nat} (h : s.ts.freqCache = some hz) : programmed hz s = s := if_pos h

theorem programmed_of_differs {hz : Nat} (h : s.ts.freqCache ≠ some hz) :
    programmed hz s = { s with
      f := (Config.freqTable hz).1
      flt := (Config.freqTable hz).2
      cmds := s.cmds ++ [.write .f (Config.freqTable hz).1, .write .flt (Config.freqTable hz).2]
      ts := { s.ts with freqCache := some hz } } := by
  simp [programmed, h, writeF, writeFlt]

theorem programmed_callers (hz : Nat) (s : State) : (programmed hz s).callers = s.callers := by
  rw [programmed_frame]

/-! ### TRANSFER and ACQUIRE (R170, R110) -/

/-- The transfer in progress does what the row of the label does. -/
theorem exec_eq_transferPhase (hi : phaseRow i = some (u, p)) (s : State) :
    exec i s = .next (transferPhase u p s) := by
  cases i <;> cases hi <;> rfl

/-- At the phases of Bus Acquisition the transfer is ACQUIRE. -/
theorem transferPhase_eq_acquireStep
    (hp : p = .aTest ∨ p = .aRestart ∨ p = .aWaitfree ∨ p = .aStart ∨ p = .aAddr) (s : State) :
    transferPhase u p s = acquireStep u p s := by
  rcases hp with rfl | rfl | rfl | rfl | rfl <;> rfl

theorem ne_idle_of_phaseRow (hi : phaseRow i = some (u, p)) : p ≠ .idle := by
  rintro rfl
  cases phaseInstr_of_phaseRow hi

theorem exec_transfer_of_inCall {msgs : List Message} {count : Int} (h : (s.caller u).pc ≠ .idle) :
    exec (.transfer u msgs count) s = .next (transferPhase u (s.caller u).pc s) := if_neg h

end PhaseRows

end Sys2Proof.Machine

namespace Sys2Proof.Proofs

open Sys2Proof.Machine Sys2Proof.Claims

/-- Settles O43: inside the chain the merge test answers its value, before it Msg(i) faults. -/
theorem mergeTestNeedsEveryCondition : Obligations.MergeTestNeedsEveryCondition := by
  refine fun s r i msgs count hr hm hc => ⟨fun h => ?value, fun hi hnext => ?fault⟩
  case value =>
    exact ⟨_, exec_restartFor_of_ok hr (restartForAct_ok hm hc h), _, rfl, restartValue_eq_false_iff⟩
  case fault => exact exec_restartFor_of_error hr (restartForAct_before hc hi hnext)

/-- Settles O45: TRANSFER and ACQUIRE choose by the label what the label's row does. -/
theorem operationsRunTheirPhases : Obligations.OperationsRunTheirPhases := by
  rintro i u p s msgs count hi rfl
  have hrow := exec_eq_transferPhase hi s
  refine ⟨⟨_, exec_transfer_of_inCall (ne_idle_of_phaseRow hi), hrow⟩, fun hp => ⟨_, rfl, ?_⟩⟩
  rw [hrow, transferPhase_eq_acquireStep hp]

/-- Settles O47: the chain is refused by one of its entries, an empty one has none, and otherwise the
phase goes on. -/
theorem initResetsTheRecord : Obligations.InitResetsTheRecord := by
  refine fun s u h => ⟨?refused, fun hcount => ?empty, fun hcount hgood => ?init⟩
  case refused =>
    rintro ⟨k, hk, hbad⟩
    have hany := callChain_any_iff.2 ⟨k, hk, unsupported_iff.2 hbad⟩
    exact congrArg Host.Outcome.next (coordStep_of_ok h (tInitAct_of_refused hany))
  case empty =>
    obtain ⟨hpc, hrun⟩ := h
    have hfault : exec (.tInit u) s = .next (takeFault (.caller u) .emptyChain s) :=
      congrArg Host.Outcome.next
        ((if_pos hpc).trans (runAct_error (r := .caller u) hrun (tInitAct_of_empty hcount)))
    have hrecord : CallerBecomes s u (s.caller u) { s with faults := s.faults.add .emptyChain } :=
      callerBecomes_of_callers rfl
    exact ⟨_, hfault, callerBecomes_updCaller hrecord _, rfl⟩
  case init =>
    have hok : (callChain (s.caller u).msgs (s.caller u).count).any unsupported = false := by
      rw [Bool.eq_false_iff, Ne, callChain_any_iff]
      rintro ⟨k, hk, hbad⟩
      obtain ⟨hlength, hflag, hext⟩ := hgood k hk
      rcases unsupported_iff.1 hbad with hbad | hbad | hbad
      · exact absurd hbad (not_lt.2 hlength)
      · exact Bool.false_ne_true (hflag.symm.trans hbad)
      · exact Bool.false_ne_true (hext.symm.trans hbad)
    exact ⟨_, exec_of_phaseGoes rfl h (.init hok hcount), callerBecomes_goto rfl _, rfl⟩

/-- Settles O48: SetFrequency writes nothing on a cached request, and T_FREQ runs it for message 0. -/
theorem frequencyIsProgrammedWhenItDiffers : Obligations.FrequencyIsProgrammedWhenItDiffers := by
  refine fun s hz => ⟨fun h => ?cached, fun h => ?differs, ?phase⟩
  case cached => rw [exec_setFrequency, programmed_of_cached h]
  case differs => exact ⟨_, exec_setFrequency hz s, programmed_of_differs h⟩
  case phase =>
    rintro u msgs count h hm hc hpos rfl
    exact ⟨_, exec_of_phaseGoes rfl h (.freq (msgAt_ok hm hc le_rfl hpos)), _, exec_setFrequency _ s,
      callerBecomes_goto (programmed_callers _ s) _, rfl⟩

/-- Settles O50: T_STEP reads the merge test in the new generation, T_ACQ the current message. -/
theorem stepOpensAGeneration : Obligations.StepOpensAGeneration := by
  refine fun s u msgs count idx hm hc hi hlow hhigh => ⟨fun h => ?step, fun h => ?acq⟩
  case step =>
    have hr : restartForAct idx (opened s) = .ok (restartValue msgs count idx) (opened s) :=
      restartForAct_ok hm hc (.inl hlow)
    exact ⟨_, exec_of_phaseGoes rfl h (.step hi hr), callerBecomes_goto rfl _, rfl⟩
  case acq =>
    exact ⟨_, exec_of_phaseGoes rfl h (.acq (curMsg_ok hm hc hi hlow hhigh)), callerBecomes_goto rfl _,
      rfl⟩

/-- Settles O52: the command, the latch and the release, each with its next label. -/
theorem exitReturnsTheResult : Obligations.ExitReturnsTheResult := by
  refine fun s u => ⟨fun h => ?exit, fun h st hst => ?result, fun h => ?unlock⟩
  case exit =>
    exact ⟨_, exec_of_phaseGoes rfl h .exit, callerBecomes_goto rfl _, _,
      command_fieldsByte idleFields s, rfl⟩
  case result =>
    exact ⟨_, exec_of_phaseGoes rfl h (.result hst),
      callerBecomes_updCaller (callerBecomes_updCaller (callerBecomes_of_callers rfl) _) _, rfl⟩
  case unlock => exact ⟨_, exec_of_phaseGoes rfl h .unlock, callerBecomes_goto rfl _, rfl⟩

/-- Settles O44: TRANSFER of an IDLE thread is the call from thread context, which is enabled. -/
theorem callEntersOrIsRefused : Obligations.CallEntersOrIsRefused := by
  refine fun s u msgs count => ⟨?enters, fun ctx hctx => ?refused, _, rfl, rfl⟩
  case enters =>
    rintro ⟨hpc, hrun⟩ hlt i hi
    have hcall : exec (.call u .thread msgs count) s =
        .next (s.updCaller u fun c => { c with pc := .tLock, msgs := msgs, count := count }) :=
      congrArg Host.Outcome.next (if_pos ⟨hpc, hrun, hlt⟩)
    have hexec : exec i s = exec (.call u .thread msgs count) s := by
      rcases hi with rfl | rfl
      · rfl
      · exact exec_transfer_of_idle hpc
    exact ⟨_, hexec.trans hcall, callerBecomes_updCaller (callerBecomes_of_callers rfl) _, rfl⟩
  case refused =>
    cases ctx with
    | thread => exact absurd rfl hctx
    | interrupt => rfl
    | timer => rfl

/-- Settles O46: a free lock is taken with the label, a taken one holds the thread. -/
theorem lockIsTestAndSet : Obligations.LockIsTestAndSet := by
  refine fun s u h => ⟨fun hfree => ?free, fun htaken t ht => ?taken⟩
  case free => exact ⟨_, exec_of_phaseGoes rfl h (.lock hfree), callerBecomes_goto rfl _, rfl⟩
  case taken =>
    have hhold : exec (.tLock u) s = .next s :=
      congrArg Host.Outcome.next (coordStep_of_idle (tLockAct_of_locked htaken))
    obtain rfl := Host.Outcome.next.inj (hhold.symm.trans ht)
    exact ⟨htaken, fun _ => rfl⟩

/-- Settles O49: the clear is the command CLR_ALL, and the loop test is the spec's condition. -/
theorem clearThenLoop : Obligations.ClearThenLoop := by
  refine fun s u => ⟨fun h => ?clear, fun h n st hn hst => ?loop⟩
  case clear =>
    exact ⟨_, exec_of_phaseGoes rfl h .clear, callerBecomes_goto rfl _, _, clearAll_iff.2 rfl, rfl⟩
  case loop =>
    have hgo : PhaseGoes u s .tLoop (if 0 < n ∧ st = .ok then .tStep else .tExit) s := by
      simpa using PhaseGoes.loop (u := u) (loopGoesOn_eq hn hst)
    exact ⟨_, exec_of_phaseGoes rfl h hgo, callerBecomes_goto rfl _, rfl⟩

/-- Settles O51: the wait goes on with the completion and holds the whole state without it. -/
theorem waitIsTimedAndHolds : Obligations.WaitIsTimedAndHolds := by
  refine fun s u => ⟨fun h => ?arm, fun h => ⟨fun hdone => ?goes, fun hopen t ht => ?holds⟩,
    fun h => ?cancel⟩
  case arm => exact ⟨_, exec_of_phaseGoes rfl h .arm, callerBecomes_goto rfl _, rfl⟩
  case goes => exact ⟨_, exec_of_phaseGoes rfl h (.wait hdone), callerBecomes_goto rfl _, rfl⟩
  case holds =>
    have hhold : exec (.tWait u) s = .next s :=
      congrArg Host.Outcome.next (coordStep_of_idle (tWaitAct_of_incomplete hopen))
    obtain rfl := Host.Outcome.next.inj (hhold.symm.trans ht)
    obtain ⟨hpc, -⟩ := h
    exact hpc
  case cancel => exact ⟨_, exec_of_phaseGoes rfl h .cancel, callerBecomes_goto rfl _, rfl⟩

end Sys2Proof.Proofs

/-! PROOFS. The watchdog (44_watchdog.md): settles O12 and O54. First the handler and the expiry as
states, then the steps that never arm the watchdog, then where a phase may be while it is armed, then
the obligations. -/

namespace Sys2Proof.Machine

open Sys2Proof.Claims

/-! ### The timeout handler and the expiry (R203, R204) -/

/-- On the open step that it was armed for the handler times the step out. -/
theorem watchdogHandler_of_open {g : Nat} {s : State} (hg : g = s.gen) (hopen : s.doneGen ≠ s.gen) :
    watchdogHandler g s =
      { s with ts := { s.ts with status := some .timeout }, doneGen := s.gen } := if_pos ⟨hg, hopen⟩

/-- For another step, or one that is complete, the handler does nothing. -/
theorem watchdogHandler_of_stale {g : Nat} {s : State} (h : g ≠ s.gen ∨ s.doneGen = s.gen) :
    watchdogHandler g s = s := by
  refine if_neg ?_
  rintro ⟨hg, hopen⟩
  exact h.elim (· hg) hopen

/-- An armed watchdog expires once: it is disarmed, then the handler runs with its context. -/
theorem expireWatchdog_of_armed {s : State} (h : s.wdtArmed = true) :
    expireWatchdog s = watchdogHandler s.wdtCtx { s with wdtArmed := false } := if_pos h

theorem watchdogHandler_wdtArmed (g : Nat) (s : State) :
    (watchdogHandler g s).wdtArmed = s.wdtArmed := by
  unfold watchdogHandler
  split <;> rfl

/-- After an expiry the watchdog is disarmed, whether it was armed or not. -/
theorem expireWatchdog_wdtArmed (s : State) : (expireWatchdog s).wdtArmed = false := by
  cases h : s.wdtArmed with
  | true => rw [expireWatchdog_of_armed h, watchdogHandler_wdtArmed]
  | false => rw [expireWatchdog_of_disarmed h, h]

/-! ### The steps that do not arm the watchdog -/

/-- From `s` to `t` the watchdog is not armed anew: armed in `t`, it was armed in `s` with the same
context (R201). -/
def KeepsArming (s t : State) : Prop := t.wdtArmed = true → s.wdtArmed = true ∧ t.wdtCtx = s.wdtCtx

theorem KeepsArming.of_eq {s t : State} (harmed : t.wdtArmed = s.wdtArmed) (hctx : t.wdtCtx = s.wdtCtx) :
    KeepsArming s t := fun h => ⟨harmed ▸ h, hctx⟩

theorem KeepsArming.of_disarmed {s t : State} (h : t.wdtArmed = false) : KeepsArming s t :=
  fun harmed => absurd harmed (by simp [h])

theorem KeepsArming.refl (s : State) : KeepsArming s s := .of_eq rfl rfl

/-- No write of the handler reaches the watchdog (R205). -/
theorem handlerStable_keepsArming (s : State) : HandlerStable (KeepsArming s) where
  ts _ _ h := h
  signal _ h := h
  writeC1 _ _ h := h
  writeS _ _ h := h
  writeD _ _ h := h
  readC1 _ h := h
  readS _ h := h
  readD _ h := h
  store _ _ _ h := h

theorem keepsArming_of_handlerRow {i : Instr} (hi : handlerRow i = true) {s t : State}
    (h : exec i s = .next t) : KeepsArming s t := by
  obtain ⟨a, ha, hex⟩ := (handlerStable_keepsArming s).exec_handlerRow (fun _ _ hs => hs) hi s
  rw [hex] at h
  cases h
  obtain ⟨hok, herr⟩ := ha s (.refl s)
  exact runAct_keeps (.refl s) (fun w hw => hok _ w hw) fun e w hw => herr e w hw

theorem keepsArming_of_registerRow {i : Instr} (hi : registerRow i = true) {s t : State}
    (h : exec i s = .next t) : KeepsArming s t := by
  cases i <;> cases hi
  all_goals cases h; exact .of_eq rfl rfl

theorem keepsArming_txComplete (o : TxOutcome) (s : State) : KeepsArming s (txComplete o s) := by
  unfold txComplete
  split
  · cases o <;> exact .of_eq rfl rfl
  all_goals exact .refl s

theorem keepsArming_rxComplete (o : RxOutcome) (s : State) : KeepsArming s (rxComplete o s) := by
  unfold rxComplete
  split
  · cases o <;> exact .of_eq rfl rfl
  all_goals exact .refl s

theorem keepsArming_otherMaster (busy : Bool) (s : State) : KeepsArming s (otherMaster busy s) := by
  unfold otherMaster
  split <;> exact .of_eq rfl rfl

theorem keepsArming_strayFlags (iicif arbl rxak clearMst : Bool) (s : State) :
    KeepsArming s (strayFlags iicif arbl rxak clearMst s) := by
  rw [strayFlags_frame]
  exact .of_eq rfl rfl

theorem keepsArming_callStep (u : Nat) (ctx : Context) (msgs : List Message) (count : Int) (s : State) :
    KeepsArming s (callStep u ctx msgs count s) := by
  rcases callStep_cases u ctx msgs count s with h | ⟨-, -, -, h⟩ | h
  all_goals rw [h]; exact .of_eq rfl rfl

/-- An entry of the schedule that is not a phase of a caller thread does not arm the watchdog. -/
theorem keepsArming_or_phaseStep_of_runSlot {x : Slot} {s t : State} (h : runSlot x s = .next t) :
    KeepsArming s t ∨ ∃ u p, PhaseStep u p s t := by
  cases x with
  | word nbits w =>
    cases hd : decodeWord s.params.layout nbits w with
    | none => rw [runSlot_word_of_undecodable hd] at h; cases h
    | some i =>
      rw [runSlot_word_of_decoded hd] at h
      rcases decodeWord_rows hd with hi | hi
      · exact .inl (keepsArming_of_registerRow hi h)
      · exact .inl (keepsArming_of_handlerRow hi h)
  | move m =>
    cases m with
    | thread u =>
      cases hi : phaseInstr u (s.caller u).pc with
      | none =>
        rw [runSlot_move_of_unselected (m := .thread u) hi] at h
        cases h
        exact .inl (.refl s)
      | some i =>
        rw [runSlot_move_of_selected (m := .thread u) hi] at h
        exact .inr ⟨u, _, phaseStep_of_phaseRow (phaseRow_of_phaseInstr hi) h⟩
    | irq => exact .inl (keepsArming_of_handlerRow (i := .irqDeliver) rfl h)
    | call u ctx msgs count => cases h; exact .inl (keepsArming_callStep u ctx msgs count s)
    | resetCall => cases h; exact .inl (.of_eq rfl rfl)
    | expire => cases h; exact .inl (.of_disarmed (expireWatchdog_wdtArmed s))
    | txComplete o => cases h; exact .inl (keepsArming_txComplete o s)
    | rxComplete o => cases h; exact .inl (keepsArming_rxComplete o s)
    | otherMaster busy => cases h; exact .inl (keepsArming_otherMaster busy s)
    | stray a b c d => cases h; exact .inl (keepsArming_strayFlags a b c d s)

/-! ### The wait of a step (R206) -/

/-- The labels between T_ARM and T_CANCEL (R181, R183). -/
def InWait (p : Phase) : Prop := p = .tWait ∨ p = .tCancel

theorem holdsLock_of_inWait {p : Phase} (h : InWait p) : holdsLock p = true := by
  rcases h with rfl | rfl <;> rfl

theorem not_inWait_idle : ¬InWait .idle := by simp [InWait]

theorem watchdogCovers_of_disarmed {s : State} (h : s.wdtArmed = false) : WatchdogCovers s :=
  fun harmed => absurd harmed (by simp [h])

/-- A watchdog that is not armed anew stays inside its wait while the generation stays and the waiting
thread does not move. -/
theorem WatchdogCovers.of_keepsArming {s t : State} (hs : WatchdogCovers s) (h : KeepsArming s t)
    (hgen : t.gen = s.gen) (hpc : ∀ v, InWait (s.caller v).pc → (t.caller v).pc = (s.caller v).pc) :
    WatchdogCovers t := by
  intro harmed
  obtain ⟨harmed', hctx⟩ := h harmed
  obtain ⟨⟨v, hv⟩, hcover⟩ := hs harmed'
  exact ⟨⟨v, (hpc v hv).symm ▸ hv⟩, by rw [hctx, hcover, hgen]⟩

/-- While only `u` may hold the lock, and it is not in the wait, the watchdog is disarmed. -/
theorem WatchdogCovers.disarmed {s : State} (hs : WatchdogCovers s) {u : Nat}
    (hothers : ∀ v, v ≠ u → holdsLock (s.caller v).pc = false) (hu : ¬InWait (s.caller u).pc) :
    s.wdtArmed = false := by
  by_contra harmed
  obtain ⟨⟨v, hv⟩, -⟩ := hs (by simpa using harmed)
  by_cases hvu : v = u
  · exact hu (hvu ▸ hv)
  · simpa [hothers v hvu] using holdsLock_of_inWait hv

/-- A phase arms the watchdog for the step in progress, ends the wait, disarms it, or is outside the
wait and leaves the arming (R181 to R183). -/
theorem PhaseGoes.arming_cases {u : Nat} {s w : State} {p q : Phase} (h : PhaseGoes u s p q w) :
    (InWait q ∧ w.wdtCtx = w.gen) ∨ (p = .tWait ∧ InWait q ∧ w = s) ∨ w.wdtArmed = false ∨
      (¬InWait p ∧ w.wdtArmed = s.wdtArmed) := by
  cases h with
  | arm => exact .inl ⟨.inl rfl, rfl⟩
  | wait => exact .inr (.inl ⟨rfl, .inr rfl, rfl⟩)
  | cancel => exact .inr (.inr (.inl rfl))
  | freq => exact .inr (.inr (.inr ⟨by simp [InWait], by rw [programmed_frame]⟩))
  | lock | init | clear | loop | step | acq | test | restart | waitfree | start | addr | exit | result
  | unlock => exact .inr (.inr (.inr ⟨by simp [InWait], rfl⟩))

theorem PhaseGoes.watchdogCovers {u : Nat} {s w : State} {p q : Phase} (h : PhaseGoes u s p q w)
    (hl : LockExclusive s) (hs : WatchdogCovers s) (hpc : (s.caller u).pc = p) :
    WatchdogCovers (w.goto u q) := by
  have hwait (hq : InWait q) : InWait ((w.goto u q).caller u).pc := by rwa [caller_goto_same]
  rcases h.arming_cases with ⟨hq, hctx⟩ | ⟨-, hq, rfl⟩ | hoff | ⟨hp, hw⟩
  · exact fun _ => ⟨⟨u, hwait hq⟩, hctx⟩
  · intro harmed
    obtain ⟨-, hctx⟩ := hs harmed
    exact ⟨⟨u, hwait hq⟩, hctx⟩
  · exact watchdogCovers_of_disarmed hoff
  · have hoff := hs.disarmed (fun v hv => h.others_free hl hpc hv) (hpc ▸ hp)
    exact watchdogCovers_of_disarmed (hw.trans hoff)

/-- A phase that can fault holds the lock outside the wait. -/
theorem PhaseRaises.outside_wait {u : Nat} {s w : State} {p : Phase} {e : FaultReason}
    (h : PhaseRaises u s p e w) : holdsLock p = true ∧ ¬InWait p := by
  cases h <;> exact ⟨rfl, by simp [InWait]⟩

theorem PhaseStep.watchdogCovers {u : Nat} {p : Phase} {s t : State} (h : PhaseStep u p s t)
    (hl : LockExclusive s) (hs : WatchdogCovers s) : WatchdogCovers t := by
  cases h with
  | hold => exact hs
  | refuse => exact hs
  | go hpc hgo => exact hgo.watchdogCovers hl hs hpc
  | @fault e w hpc hraise =>
    obtain ⟨hp, hout⟩ := hraise.outside_wait
    have hoff := hs.disarmed (fun v hv => hl.others (hpc ▸ hp) hv) (hpc ▸ hout)
    have hw : w.wdtArmed = s.wdtArmed := by rcases hraise.eq_or_opened with rfl | rfl <;> rfl
    exact watchdogCovers_of_disarmed (hw.trans hoff)

/-- An agent that is no caller thread moves no thread and opens no step. -/
theorem AgentStep.gen_and_callers {s t : State} (h : AgentStep s t) :
    t.gen = s.gen ∧ t.callers = s.callers := by
  rcases h with hw | ⟨e, w, hw, rfl⟩
  · exact ⟨hw.gen, hw.callers⟩
  · exact ⟨hw.gen, hw.callers⟩

/-- A call moves a thread that is IDLE, so not one in the wait (R171). -/
theorem CallEnters.pc_of_inWait {u : Nat} {msgs : List Message} {count : Int} {s t : State}
    (h : CallEnters u msgs count s t) {v : Nat} (hv : InWait (s.caller v).pc) :
    (t.caller v).pc = (s.caller v).pc := by
  obtain ⟨hpc, -, -, rfl⟩ := h
  have hvu : v ≠ u := by
    rintro rfl
    exact not_inWait_idle (hpc ▸ hv)
  rw [caller_updCaller_other _ hvu]

theorem watchdogCovers_of_runSlot {x : Slot} {s t : State} (h : runSlot x s = .next t)
    (hl : LockExclusive s) (hs : WatchdogCovers s) : WatchdogCovers t := by
  rcases keepsArming_or_phaseStep_of_runSlot h with hkeeps | ⟨u, p, hphase⟩
  · cases slotStep_of_runSlot h with
    | agent hstep =>
      obtain ⟨hgen, hcallers⟩ := hstep.gen_and_callers
      exact hs.of_keepsArming hkeeps hgen fun v _ => by rw [caller_congr hcallers]
    | phase _ hphase => exact hphase.watchdogCovers hl hs
    | call hcall =>
      have hgen : t.gen = s.gen := by obtain ⟨-, -, -, rfl⟩ := hcall; rfl
      exact hs.of_keepsArming hkeeps hgen fun v hv => hcall.pc_of_inWait hv
    | refused => exact hs
  · exact hphase.watchdogCovers hl hs

end Sys2Proof.Machine

namespace Sys2Proof.Proofs

open Sys2Proof.Machine Sys2Proof.Claims

/-- Settles O12: a phase outside the wait finds the watchdog disarmed, because a thread in the wait would
hold the lock too; the other steps neither arm it nor move the thread that waits. -/
theorem stepKeepsWatchdogCoverage : Obligations.StepKeepsWatchdogCoverage := by
  intro s t hl hs h
  obtain ⟨x, rest, k, hrun, -, -⟩ := step_takes_entry h
  exact watchdogCovers_of_runSlot hrun hl hs

/-- Settles O54: the handler acts exactly on the open step it was armed for, and an expiry is the
handler on the disarmed state. -/
theorem timeoutActsOnlyOnTheOpenStep : Obligations.TimeoutActsOnlyOnTheOpenStep := by
  refine fun s g d => ⟨?arm, ?cancel, fun hg hopen => ?handlerOpen, fun hstale => ?handlerStale,
    fun harmed => ⟨fun hctx hopen => ?expireOpen, fun hstale => ?expireStale⟩⟩
  case arm => exact ⟨_, rfl, rfl⟩
  case cancel => exact ⟨_, rfl, rfl⟩
  case handlerOpen => exact ⟨_, rfl, watchdogHandler_of_open hg hopen⟩
  case handlerStale => exact congrArg Host.Outcome.next (watchdogHandler_of_stale hstale)
  case expireOpen =>
    exact ⟨_, rfl, (expireWatchdog_of_armed harmed).trans (watchdogHandler_of_open hctx hopen)⟩
  case expireStale =>
    exact ⟨_, rfl, (expireWatchdog_of_armed harmed).trans (watchdogHandler_of_stale hstale)⟩

end Sys2Proof.Proofs

/-! PROOFS. The interrupt and the environment (60_exceptions.md): settles O10, O18, O20, O22, O55, O56 and
O57. First the control bytes; then what the rows of the handler keep when their writes are taken as they
are (`SharedStable`); then the frames and the completions of the environment; then the invariant of the
peripheral, kept by every write that a step makes. -/

namespace Sys2Proof.Machine

open Sys2Proof.Claims

/-! ### The bytes that the block writes to C1 (R81, R84) -/

/-- A command whose byte sets named fields of C1 alone, so that the unused bits are written 0 (R81). -/
def UsesFields (cmd : Layout → Byte) : Prop := ∀ L, cmd L &&& c1FieldsByte L = cmd L

/-- A byte of some of the fields has no bit outside a byte of them all. -/
theorem fieldsByte_and_of_subset {ps qs : List Nat} (h : ps ⊆ qs) :
    fieldsByte ps &&& fieldsByte qs = fieldsByte ps := by
  refine BitVec.eq_of_getLsbD_eq fun i _ => ?_
  rw [BitVec.getLsbD_and, getLsbD_fieldsByte, getLsbD_fieldsByte]
  by_cases hi : i ∈ ps
  · simp [hi, h hi]
  · simp [hi]

/-- CMD_START and CMD_TX. -/
theorem usesFields_start : UsesFields cmdStartByte := fun _ => fieldsByte_and_of_subset (by simp)
theorem usesFields_restart : UsesFields cmdRestartByte := fun _ => fieldsByte_and_of_subset (by simp)
theorem usesFields_rxAck : UsesFields cmdRxAckByte := fun _ => fieldsByte_and_of_subset (by simp)
theorem usesFields_rxNoack : UsesFields cmdRxNoackByte := fun _ => fieldsByte_and_of_subset (by simp)
theorem usesFields_stop : UsesFields cmdStopByte := fun _ => fieldsByte_and_of_subset (by simp)
theorem usesFields_idle : UsesFields cmdIdleByte := cmdIdleByte_and_c1FieldsByte

/-! ### What the handler's own writes keep -/

/-- A change of the Transfer State that leaves what T_INIT and T_FREQ took from the call (R173, R175). -/
def LeavesCall (f : TransferState → TransferState) : Prop :=
  ∀ ts, (f ts).msgs = ts.msgs ∧ (f ts).count = ts.count ∧ (f ts).freqCache = ts.freqCache

/-- What a property must survive to be kept by every branch of the handler. `HandlerStable` asks it of any
byte written to C1 and of any change of the Transfer State; here C1 takes the control commands of R84 and
the Transfer State keeps the call's chain and the frequency cache (R42). -/
structure SharedStable (P : State → Prop) : Prop where
  ts : ∀ f, LeavesCall f → ∀ s, P s → P { s with ts := f s.ts }
  signal : ∀ s, P s → P (signalDone s)
  command : ∀ cmd, UsesFields cmd → ∀ s, P s → P (command cmd s)
  writeS : ∀ v s, P s → P (writeS v s)
  writeD : ∀ v s, P s → P (writeD v s)
  readC1 : ∀ s, P s → P { s with cmds := s.cmds ++ [.read .c1 s.c1] }
  readS : ∀ s, P s → P { s with cmds := s.cmds ++ [.read .s s.status] }
  readD : ∀ s, P s → P { s with
    pending := pendingAfterReadD s.params.layout s.c1 s.pending
    cmds := s.cmds ++ [.read .d s.rxLatch] }
  store : ∀ a v s, P s → P { s with mem := memWrite a v s.mem }
  out : ∀ o s, P s → P { s with out := o }
  fault : ∀ e s, P s → P (takeFault .handler e s)

namespace SharedStable
variable {P : State → Prop} (h : SharedStable P)
include h

theorem keeps_setTs {f : TransferState → TransferState} (hf : LeavesCall f) : Keeps P (setTs f) :=
  Holds.change fun s hs => h.ts f hf s hs

theorem keeps_command {cmd : Layout → Byte} (hcmd : UsesFields cmd) :
    Keeps P (change (Machine.command cmd)) :=
  Holds.change fun s hs => h.command cmd hcmd s hs

theorem keeps_clearCommand (cmd : Layout → Byte) : Keeps P (change (clearCommand cmd)) :=
  Holds.change fun s hs => h.writeS _ s hs

theorem keeps_readD : Keeps P Machine.readD := Holds.readD fun s hs => h.readD s hs

theorem keeps_give (o : OpResult) : Keeps P (give o) := Holds.change fun s hs => h.out o s hs

theorem keeps_signalAct : Keeps P signalAct := Holds.change fun s hs => h.signal s hs

theorem keeps_stopAct : Keeps P stopAct :=
  Holds.bind (h.keeps_command usesFields_stop) fun _ => h.keeps_signalAct

/-! The walker (R160 to R165). -/

theorem keeps_restartRecompute : Keeps P restartRecomputeAct := by
  refine Holds.bind (keeps_look _) fun mode => ?_
  cases mode with
  | perTransition =>
    exact Holds.bind (keeps_need _) fun _ => Holds.bind (keeps_restartForAct _) fun _ =>
      h.keeps_setTs fun _ => ⟨rfl, rfl, rfl⟩
  | perStep => exact keeps_pure _

theorem keeps_nextMessage : Keeps P nextMessageAct :=
  Holds.bind (keeps_need _) fun _ => h.keeps_setTs fun _ => ⟨rfl, rfl, rfl⟩

theorem keeps_advanceSignal : Keeps P advanceSignalAct :=
  Holds.bind h.keeps_nextMessage fun _ => Holds.bind h.keeps_signalAct fun _ =>
    Holds.bind h.keeps_restartRecompute fun _ => keeps_pure _

theorem keeps_advanceMerged : Keeps P advanceMergedAct :=
  Holds.bind h.keeps_nextMessage fun _ => Holds.bind h.keeps_restartRecompute fun _ => keeps_pure _

theorem keeps_terminate : Keeps P terminateAct :=
  Holds.bind h.keeps_stopAct fun _ => keeps_pure _

theorem keeps_nextmsg : Keeps P nextmsgAct := by
  refine Holds.bind (keeps_need _) fun _ =>
    Holds.bind (h.keeps_setTs fun _ => ⟨rfl, rfl, rfl⟩) fun _ =>
      Holds.ite (fun _ => ?_) fun _ => h.keeps_terminate
  exact Holds.bind (keeps_need _) fun _ =>
    Holds.ite (fun _ => h.keeps_advanceSignal) fun _ => h.keeps_advanceMerged

/-! The bodies of the rows (R131 to R146). -/

theorem keeps_txNakBody : Keeps P txNakBody :=
  Holds.bind (h.keeps_setTs fun _ => ⟨rfl, rfl, rfl⟩) fun _ => h.keeps_stopAct

/-- A byte read from a buffer and sent (R135, R137). -/
theorem keeps_send (m : Message) (i w : Int) : Keeps P (do
    let b ← bufRead m i
    change (Machine.writeD b)
    setTs fun ts => { ts with written := some w } : Act Unit) :=
  Holds.bind (keeps_bufRead m i) fun _ =>
    Holds.bind (R := fun _ => P) (Holds.change fun s hs => h.writeD _ s hs) fun _ =>
      h.keeps_setTs fun _ => ⟨rfl, rfl, rfl⟩

theorem keeps_txWrMergeBody : Keeps P txWrMergeBody :=
  Holds.bind keeps_curMsg fun m => h.keeps_send m 0 1

/-- TX_RD_NOACK and TX_RD_ACK (R138, R139). -/
theorem keeps_readSetUp {cmd : Layout → Byte} (hcmd : UsesFields cmd) :
    Keeps P (do change (Machine.command cmd); let _ ← Machine.readD : Act Unit) :=
  Holds.bind (h.keeps_command hcmd) fun _ => Holds.bind h.keeps_readD fun _ => keeps_pure _

theorem keeps_dataRead (m : Message) : Keeps P (dataRead m) :=
  Holds.bind h.keeps_readD fun _ => Holds.bind (keeps_need _) fun _ =>
    Holds.bind (R := fun _ => P)
      (Holds.ite (fun _ => Holds.change fun s hs => h.store _ _ s hs) fun _ => keeps_raise _)
      fun _ => keeps_pure _

theorem keeps_consumeByte (m : Message) : Keeps P (consumeByte m) :=
  Holds.bind (h.keeps_dataRead m) fun _ => Holds.bind (keeps_need _) fun _ =>
    h.keeps_setTs fun _ => ⟨rfl, rfl, rfl⟩

theorem keeps_rxLastTailBody (m : Message) : Keeps P (rxLastTailBody m) :=
  Holds.bind (h.keeps_consumeByte m) fun _ => Holds.bind h.keeps_nextmsg fun _ => keeps_pure _

theorem keeps_branchBody (b : Branch) (m : Message) : Keeps P (branchBody b m) := by
  cases b with
  | guard =>
    exact Holds.bind (h.keeps_clearCommand _) fun _ => h.keeps_command usesFields_stop
  | arbl =>
    exact Holds.bind (h.keeps_clearCommand _) fun _ =>
      Holds.bind (h.keeps_setTs fun _ => ⟨rfl, rfl, rfl⟩) fun _ => h.keeps_stopAct
  | txNak => exact h.keeps_txNakBody
  | txWrByte => exact Holds.bind (keeps_need _) fun w => h.keeps_send m w (w + 1)
  | txWrDone =>
    exact Holds.bind h.keeps_nextmsg fun _ =>
      Holds.ite (fun _ => h.keeps_txWrMergeBody) fun _ => keeps_pure _
  | txWrMerge => exact h.keeps_txWrMergeBody
  | txRdNoack => exact h.keeps_readSetUp usesFields_rxNoack
  | txRdAck => exact h.keeps_readSetUp usesFields_rxAck
  | rxLastRestart =>
    exact Holds.bind (h.keeps_command usesFields_start) fun _ => h.keeps_rxLastTailBody m
  | rxLastMerge1 =>
    exact Holds.bind (h.keeps_command usesFields_rxNoack) fun _ => h.keeps_rxLastTailBody m
  | rxLastMerge => exact h.keeps_rxLastTailBody m
  | rxPenultRestart =>
    exact Holds.bind (h.keeps_command usesFields_rxNoack) fun _ => h.keeps_consumeByte m
  | rxByte => exact h.keeps_consumeByte m

/-! The invocation (R130, R133, R140): it ends in the body of a row. The bodies of the guard, the loss of
arbitration and the missing acknowledgement read no message, so any message stands for it there. -/

theorem keeps_txBranch (L : Layout) (st : Byte) (m : Message) : Keeps P (txBranch L st m) := by
  have hbody b : Keeps P (branchBody b m) := h.keeps_branchBody b m
  refine Holds.ite (fun _ => hbody .txNak) fun _ => Holds.ite (fun _ => ?write) fun _ => ?read
  case write =>
    exact Holds.bind (keeps_need _) fun _ =>
      Holds.ite (fun _ => hbody .txWrDone) fun _ => hbody .txWrByte
  case read =>
    refine Holds.ite (fun _ => ?_) fun _ => hbody .txRdAck
    exact Holds.bind (keeps_need _) fun _ =>
      Holds.ite (fun _ => hbody .txRdNoack) fun _ => hbody .txRdAck

theorem keeps_rxBranch (m : Message) : Keeps P (rxBranch m) := by
  have hbody b : Keeps P (branchBody b m) := h.keeps_branchBody b m
  refine Holds.bind (keeps_need _) fun _ => Holds.ite (fun _ => ?last) fun _ =>
    Holds.ite (fun _ => ?penult) fun _ => hbody .rxByte
  case last =>
    refine Holds.bind (keeps_need _) fun _ => Holds.ite (fun _ => hbody .rxLastRestart) fun _ => ?_
    exact Holds.bind (keeps_need _) fun _ => Holds.bind (keeps_msgAt _) fun _ =>
      Holds.ite (fun _ => hbody .rxLastMerge1) fun _ => hbody .rxLastMerge
  case penult =>
    exact Holds.bind (keeps_need _) fun _ =>
      Holds.ite (fun _ => hbody .rxPenultRestart) fun _ => hbody .rxByte

theorem keeps_clearMode (st : Byte) : Keeps P (clearMode st) := by
  refine Holds.bind (h.keeps_clearCommand _) fun _ =>
    Holds.bind (R := fun _ => P) (Holds.readC1 fun s hs => h.readC1 s hs) fun _ => ?_
  exact Holds.bind keeps_curMsg fun m => Holds.bind (keeps_look _) fun L =>
    Holds.ite (fun _ => h.keeps_txBranch L st m) fun _ => h.keeps_rxBranch m

theorem keeps_isr : Keeps P isr := by
  refine Holds.bind (R := fun _ => P) (Holds.readS fun s hs => h.readS s hs) fun st => ?_
  refine Holds.bind keeps_guardHolds fun _ => Holds.bind (keeps_look _) fun _ =>
    Holds.ite (fun _ => h.keeps_branchBody .guard default) fun _ => ?_
  exact Holds.ite (fun _ => h.keeps_branchBody .arbl default) fun _ => h.keeps_clearMode st

/-- A row without a state condition runs its body when its vector matches (R88). -/
theorem keeps_if_branchBody {c : Prop} [Decidable c] (b : Branch) (m : Message) :
    Keeps P (if c then branchBody b m else pure ()) :=
  Holds.ite (fun _ => h.keeps_branchBody b m) fun _ => keeps_pure _

/-- The action of a handler row keeps the property. -/
theorem action_of_handlerRow {i : Instr} (hi : handlerRow i = true) (s : State) :
    ∃ a, Keeps P a ∧ exec i s = .next (runAct .handler a s) := by
  have hrow b L v : Keeps P (branchAct L b v) := keeps_branchAct_of_body b (h.keeps_branchBody b) L v
  cases i
  case dataR =>
    exact ⟨_, Holds.bind keeps_curMsg fun m => Holds.bind (h.keeps_dataRead m) fun _ =>
      h.keeps_give _, rfl⟩
  case dummyR => exact ⟨_, Holds.bind h.keeps_readD fun _ => h.keeps_give _, rfl⟩
  case isrGuard v =>
    exact ⟨_, Holds.ite (fun _ => Holds.bind keeps_guardHolds fun _ =>
      h.keeps_if_branchBody .guard default) fun _ => keeps_pure _, rfl⟩
  case isrArbl v => exact ⟨_, h.keeps_if_branchBody .arbl default, rfl⟩
  case isrTxNak v => exact ⟨_, h.keeps_if_branchBody .txNak default, rfl⟩
  case isrTxWrMerge v => exact ⟨_, h.keeps_if_branchBody .txWrMerge default, rfl⟩
  case isrTxWrByte | isrTxWrDone | isrTxRdNoack | isrTxRdAck | isrRxLastRestart | isrRxLastMerge1
    | isrRxLastMerge | isrRxPenultRestart | isrRxByte => exact ⟨_, hrow _ _ _, rfl⟩
  case isrEntry => exact ⟨_, h.keeps_isr, rfl⟩
  case isrClearMode st => exact ⟨_, h.keeps_clearMode st, rfl⟩
  case isrRxDispatch => exact ⟨_, Holds.bind keeps_curMsg fun m => h.keeps_rxBranch m, rfl⟩
  case isrRxLastTail => exact ⟨_, Holds.bind keeps_curMsg fun m => h.keeps_rxLastTailBody m, rfl⟩
  case nextmsg => exact ⟨_, Holds.bind h.keeps_nextmsg fun _ => h.keeps_give _, rfl⟩
  case advanceSignal => exact ⟨_, Holds.bind h.keeps_advanceSignal fun _ => h.keeps_give _, rfl⟩
  case advanceMerged => exact ⟨_, Holds.bind h.keeps_advanceMerged fun _ => h.keeps_give _, rfl⟩
  case restartRecompute => exact ⟨_, h.keeps_restartRecompute, rfl⟩
  case terminate => exact ⟨_, Holds.bind h.keeps_terminate fun _ => h.keeps_give _, rfl⟩
  case stop => exact ⟨_, h.keeps_stopAct, rfl⟩
  case irqDeliver =>
    by_cases hp : irqPending s.params.layout s.c1 s.status = true
    · exact ⟨isr, h.keeps_isr, if_pos hp⟩
    · exact ⟨pure (), keeps_pure _, by simp [exec, execIrqDeliver, hp, runAct, act_pure]⟩
  all_goals cases hi

/-- A handler row keeps the property, faults and all. -/
theorem of_handlerRow {i : Instr} (hi : handlerRow i = true) {s t : State}
    (hex : exec i s = .next t) (hs : P s) : P t := by
  obtain ⟨a, ha, hact⟩ := h.action_of_handlerRow hi s
  rw [hact] at hex
  cases hex
  exact runAct_of_keeps ha h.fault hs

end SharedStable

/-! ### The frame of the handler (R237, R238) -/

/-- The handler writes the Transfer State without the call's part, the completion channel, the peripheral,
the buffers and its own faults. -/
def SharedFrame (s t : State) : Prop :=
  t = { s with
    ts := t.ts, doneGen := t.doneGen, c1 := t.c1, status := t.status, dTx := t.dTx
    pending := t.pending, bus := t.bus, cmds := t.cmds, mem := t.mem, faults := t.faults
    handlerStopped := t.handlerStopped, out := t.out } ∧
  t.ts.msgs = s.ts.msgs ∧ t.ts.count = s.ts.count ∧ t.ts.freqCache = s.ts.freqCache

theorem SharedFrame.refl (s : State) : SharedFrame s s := ⟨rfl, rfl, rfl, rfl⟩

theorem SharedFrame.trans {s t u : State} (h : SharedFrame s t) (h' : SharedFrame t u) :
    SharedFrame s u := by
  obtain ⟨hst, hm, hc, hf⟩ := h
  obtain ⟨htu, hm', hc', hf'⟩ := h'
  refine ⟨?_, hm'.trans hm, hc'.trans hc, hf'.trans hf⟩
  rw [hst] at htu
  exact htu

/-- Each write of the handler is inside the frame. -/
theorem sharedStable_sharedFrame (s : State) : SharedStable (SharedFrame s) where
  ts _ hf _ h := h.trans ⟨rfl, hf _⟩
  signal _ h := h.trans ⟨rfl, rfl, rfl, rfl⟩
  command _ _ _ h := h.trans ⟨rfl, rfl, rfl, rfl⟩
  writeS _ _ h := h.trans ⟨rfl, rfl, rfl, rfl⟩
  writeD _ _ h := h.trans ⟨rfl, rfl, rfl, rfl⟩
  readC1 _ h := h.trans ⟨rfl, rfl, rfl, rfl⟩
  readS _ h := h.trans ⟨rfl, rfl, rfl, rfl⟩
  readD _ h := h.trans ⟨rfl, rfl, rfl, rfl⟩
  store _ _ _ h := h.trans ⟨rfl, rfl, rfl, rfl⟩
  out _ _ h := h.trans ⟨rfl, rfl, rfl, rfl⟩
  fault _ _ h := h.trans ⟨rfl, rfl, rfl, rfl⟩

/-! ### The completions and the other masters (R229, R230, R232) -/

section Environment
variable {s : State}

theorem txComplete_ack {b : Byte} (h : s.pending = .txByte b) : txComplete .ack s = { s with
    bus := s.bus ++ [.sent b true], pending := .none
    status := setBitAt (clearBitAt s.status s.params.layout.rxak) s.params.layout.iicif } := by
  simp only [txComplete, h]

theorem txComplete_nak {b : Byte} (h : s.pending = .txByte b) : txComplete .nak s = { s with
    bus := s.bus ++ [.sent b false], pending := .none
    status := setBitAt (setBitAt s.status s.params.layout.rxak) s.params.layout.iicif } := by
  simp only [txComplete, h]

theorem txComplete_lost {b : Byte} (h : s.pending = .txByte b) :
    txComplete .lost s = loseArbitration s := by simp only [txComplete, h]

theorem rxComplete_byte {ack : Bool} (h : s.pending = .rxByte ack) (v : Byte) :
    rxComplete (.byte v) s = { s with
      rxLatch := v, bus := s.bus ++ [.received v ack], pending := .none
      status := setBitAt s.status s.params.layout.iicif } := by
  simp only [rxComplete, h]

theorem rxComplete_lost {ack : Bool} (h : s.pending = .rxByte ack) :
    rxComplete .lost s = loseArbitration s := by simp only [rxComplete, h]

theorem otherMaster_of_not_master (h : s.c1.getLsbD s.params.layout.mst = false) (busy : Bool) :
    otherMaster busy s = { s with status := putBitAt s.status s.params.layout.busy busy } :=
  if_neg (by simp [c1Mst, bitAt, h])

/-- The environment writes C1, S, the receive latch, the operation in flight and the bus trace. -/
def PeripheralFrame (s t : State) : Prop :=
  t = { s with
    c1 := t.c1, status := t.status, rxLatch := t.rxLatch, pending := t.pending, bus := t.bus }

theorem txComplete_frame (o : TxOutcome) (s : State) : PeripheralFrame s (txComplete o s) := by
  cases hp : s.pending with
  | txByte b =>
    cases o with
    | ack => rw [txComplete_ack hp]; rfl
    | nak => rw [txComplete_nak hp]; rfl
    | lost => rw [txComplete_lost hp]; rfl
  | rxByte _ => rw [txComplete_of_no_txByte (by simp [hp])]; rfl
  | none => rw [txComplete_of_no_txByte (by simp [hp])]; rfl

theorem rxComplete_frame (o : RxOutcome) (s : State) : PeripheralFrame s (rxComplete o s) := by
  cases hp : s.pending with
  | rxByte ack =>
    cases o with
    | byte v => rw [rxComplete_byte hp]; rfl
    | lost => rw [rxComplete_lost hp]; rfl
  | txByte _ => rw [rxComplete_of_no_rxByte (by simp [hp])]; rfl
  | none => rw [rxComplete_of_no_rxByte (by simp [hp])]; rfl

theorem otherMaster_frame (busy : Bool) (s : State) : PeripheralFrame s (otherMaster busy s) := by
  cases hm : s.c1.getLsbD s.params.layout.mst with
  | true => rw [otherMaster_of_master hm]; rfl
  | false => rw [otherMaster_of_not_master hm]; rfl

end Environment

/-! ### The flags that do not reach S.BUSY (R82) -/

/-- S.BUSY is another bit than S.ARBL, S.IICIF and S.RXAK. -/
theorem layout_wf_ne_busy {L : Layout} (h : L.wf = true) :
    L.busy ≠ L.arbl ∧ L.busy ≠ L.iicif ∧ L.busy ≠ L.rxak := by
  have hnodup := (layout_wf_fields h).2.2
  simp only [List.nodup_cons, List.mem_cons, not_or] at hnodup
  obtain ⟨⟨harbl, hiicif, hrxak, -⟩, -⟩ := hnodup
  exact ⟨harbl, hiicif, hrxak⟩

theorem sBusy_setBitAt_of_busy {L : Layout} {v : Byte} (h : sBusy L v = true) (n : Nat) :
    sBusy L (setBitAt v n) = true := by
  rw [sBusy, bitAt, getLsbD_setBitAt, ← bitAt, ← sBusy, h, Bool.true_or]

theorem sBusy_setBitAt_busy {L : Layout} (hwf : L.wf = true) (v : Byte) :
    sBusy L (setBitAt v L.busy) = true := by
  obtain ⟨⟨-, -, -, -, -, -, hbusy, -⟩, -⟩ := layout_wf_fields hwf
  simp [sBusy, bitAt, getLsbD_setBitAt, hbusy]

theorem sBusy_clearBitAt {L : Layout} {n : Nat} (hn : L.busy ≠ n) (v : Byte) :
    sBusy L (clearBitAt v n) = sBusy L v := by
  simp [sBusy, bitAt, getLsbD_clearBitAt, hn]

/-- A write of S clears ARBL and IICIF at most (R61). -/
theorem sBusy_clearedStatus {L : Layout} (hwf : L.wf = true) (s v : Byte) :
    sBusy L (clearedStatus L s v) = sBusy L s := by
  obtain ⟨harbl, hiicif, -⟩ := layout_wf_ne_busy hwf
  obtain ⟨⟨-, -, -, -, -, -, hbusy, -⟩, -⟩ := layout_wf_fields hwf
  have hclr : (clrAllByte L).getLsbD L.busy = false := by
    simp [clrAllByte, getLsbD_fieldsByte, harbl, hiicif]
  rw [sBusy, sBusy, bitAt, bitAt, clearedStatus, BitVec.getLsbD_and, BitVec.getLsbD_not,
    BitVec.getLsbD_and, hclr]
  simp [hbusy]

/-! ### The invariant of the peripheral -/

namespace PeripheralSound
variable {s t : State}

theorem layoutWf (hs : PeripheralSound s) : s.params.layout.wf = true := hs.1

theorem constrained (hs : PeripheralSound s) : s.params.unconstrained = false := hs.2.1

/-- While C1 stays, it is enough that a byte is put in flight by a master alone, and that S.BUSY is not
cleared under one. -/
theorem of_same_c1 (hs : PeripheralSound s) (hparams : t.params = s.params) (hc1 : t.c1 = s.c1)
    (hpending : t.pending ≠ .none → s.pending ≠ .none ∨ c1Mst s.params.layout s.c1 = true)
    (hbusy : c1Mst s.params.layout s.c1 = true → sBusy s.params.layout s.status = true →
      sBusy s.params.layout t.status = true) : PeripheralSound t := by
  obtain ⟨hwf, hcon, hflight, hheld, hfields⟩ := hs
  rw [PeripheralSound, hparams, hc1]
  exact ⟨hwf, hcon, fun hp => (hpending hp).elim hflight id, fun hm => hbusy hm (hheld hm), hfields⟩

/-- A write of anything but C1, S, the operation in flight and the parameters. -/
theorem congr (hs : PeripheralSound s) (hparams : t.params = s.params) (hc1 : t.c1 = s.c1)
    (hstatus : t.status = s.status) (hpending : t.pending = s.pending) : PeripheralSound t :=
  hs.of_same_c1 hparams hc1 (fun hp => .inl (hpending ▸ hp)) fun _ hb => hstatus ▸ hb

/-- A byte of named fields written to C1 (R228). A master comes from a START, which sets S.BUSY, or was
one before; where none is left, the STOP has abandoned the byte in flight, or there was none. -/
theorem command (hs : PeripheralSound s) {cmd : Layout → Byte} (hcmd : UsesFields cmd) :
    PeripheralSound (Machine.command cmd s) := by
  obtain ⟨hwf, hcon, hflight, hheld, -⟩ := hs
  cases hnew : c1Mst s.params.layout (cmd s.params.layout) with
  | true =>
    refine ⟨hwf, hcon, fun _ => hnew, fun _ => ?_, hcmd _⟩
    cases hold : c1Mst s.params.layout s.c1 with
    | false => simp [Machine.command, busyAfter, hold, hnew, sBusy_setBitAt_busy hwf]
    | true => simpa [Machine.command, busyAfter, hold, hnew] using hheld hold
  | false =>
    have hnone : (Machine.command cmd s).pending = .none := by
      cases hold : c1Mst s.params.layout s.c1 with
      | true => simp [Machine.command, pendingAfter, hold, hnew]
      | false =>
        have hidle : s.pending = .none := by simpa [hold] using hflight
        simp [Machine.command, pendingAfter, hold, hidle]
    exact ⟨hwf, hcon, fun hp => absurd hnone hp, fun hm => absurd (hnew.symm.trans hm) nofun, hcmd _⟩

theorem writeS (hs : PeripheralSound s) (v : Byte) : PeripheralSound (Machine.writeS v s) :=
  hs.of_same_c1 rfl rfl .inl fun _ hb => (sBusy_clearedStatus hs.layoutWf _ v).trans hb

/-- Only a master-transmit write of D starts a transmission (R229). -/
theorem writeD (hs : PeripheralSound s) (v : Byte) : PeripheralSound (Machine.writeD v s) := by
  refine hs.of_same_c1 rfl rfl (fun hp => ?_) fun _ hb => hb
  rw [writeD_pending] at hp
  split at hp
  · rename_i hmode
    exact .inr (Bool.and_eq_true _ _ ▸ hmode).1
  · exact .inl hp

/-- Only a master-receive read of D starts a reception (R230, R231). -/
theorem readD (hs : PeripheralSound s) (cmds : List RegAccess) : PeripheralSound { s with
    pending := pendingAfterReadD s.params.layout s.c1 s.pending
    cmds := cmds } := by
  refine hs.of_same_c1 rfl rfl (fun hp => ?_) fun _ hb => hb
  simp only [pendingAfterReadD] at hp
  split at hp
  · rename_i hmode
    exact .inr (Bool.and_eq_true _ _ ▸ hmode).1
  · exact .inl hp

/-- A loss of arbitration clears MST and ends the byte in flight (R229, R230). -/
theorem loseArbitration (hs : PeripheralSound s) : PeripheralSound (Machine.loseArbitration s) := by
  obtain ⟨hwf, hcon, -, -, hfields⟩ := hs
  have hmst : c1Mst s.params.layout (clearBitAt s.c1 s.params.layout.mst) = false := by
    simp [c1Mst, bitAt, getLsbD_clearBitAt]
  have hclear : clearBitAt s.c1 s.params.layout.mst &&& c1FieldsByte s.params.layout =
      clearBitAt s.c1 s.params.layout.mst := by
    rw [clearBitAt, BitVec.and_assoc, BitVec.and_comm _ (c1FieldsByte _), ← BitVec.and_assoc, hfields]
  exact ⟨hwf, hcon, fun hp => absurd rfl hp, fun hm => absurd (hmst.symm.trans hm) nofun, hclear⟩

/-- A byte that ends with flags set beside S.BUSY. -/
theorem completed (hs : PeripheralSound s) (hparams : t.params = s.params) (hc1 : t.c1 = s.c1)
    (hpending : t.pending = .none)
    (hbusy : sBusy s.params.layout s.status = true → sBusy s.params.layout t.status = true) :
    PeripheralSound t :=
  hs.of_same_c1 hparams hc1 (fun hp => absurd hpending hp) fun _ => hbusy

theorem txComplete (hs : PeripheralSound s) (o : TxOutcome) :
    PeripheralSound (Machine.txComplete o s) := by
  obtain ⟨-, -, hrxak⟩ := layout_wf_ne_busy hs.layoutWf
  cases hp : s.pending with
  | txByte b =>
    cases o with
    | ack =>
      rw [txComplete_ack hp]
      refine hs.completed rfl rfl rfl fun hb => sBusy_setBitAt_of_busy ?_ _
      rwa [sBusy_clearBitAt hrxak]
    | nak =>
      rw [txComplete_nak hp]
      exact hs.completed rfl rfl rfl fun hb => sBusy_setBitAt_of_busy (sBusy_setBitAt_of_busy hb _) _
    | lost => rw [txComplete_lost hp]; exact hs.loseArbitration
  | rxByte _ => rwa [txComplete_of_no_txByte (by simp [hp])]
  | none => rwa [txComplete_of_no_txByte (by simp [hp])]

theorem rxComplete (hs : PeripheralSound s) (o : RxOutcome) :
    PeripheralSound (Machine.rxComplete o s) := by
  cases hp : s.pending with
  | rxByte ack =>
    cases o with
    | byte v =>
      rw [rxComplete_byte hp]
      exact hs.completed rfl rfl rfl fun hb => sBusy_setBitAt_of_busy hb _
    | lost => rw [rxComplete_lost hp]; exact hs.loseArbitration
  | txByte _ => rwa [rxComplete_of_no_rxByte (by simp [hp])]
  | none => rwa [rxComplete_of_no_rxByte (by simp [hp])]

/-- Another master moves S.BUSY only while the block is no master (R232). -/
theorem otherMaster (hs : PeripheralSound s) (busy : Bool) :
    PeripheralSound (Machine.otherMaster busy s) := by
  cases hm : s.c1.getLsbD s.params.layout.mst with
  | true => rwa [otherMaster_of_master hm]
  | false =>
    rw [otherMaster_of_not_master hm]
    exact hs.of_same_c1 rfl rfl .inl fun hmst => absurd (hm.symm.trans hmst) nofun

end PeripheralSound

/-- Every write of the handler keeps the peripheral sound. -/
theorem sharedStable_peripheralSound : SharedStable PeripheralSound where
  ts _ _ _ h := h.congr rfl rfl rfl rfl
  signal _ h := h.congr rfl rfl rfl rfl
  command _ hcmd _ h := h.command hcmd
  writeS v _ h := h.writeS v
  writeD v _ h := h.writeD v
  readC1 _ h := h.congr rfl rfl rfl rfl
  readS _ h := h.congr rfl rfl rfl rfl
  readD _ h := h.readD _
  store _ _ _ h := h.congr rfl rfl rfl rfl
  out _ _ h := h.congr rfl rfl rfl rfl
  fault _ _ h := h.congr rfl rfl rfl rfl

theorem PeripheralSound.of_registerRow {i : Instr} (hi : registerRow i = true) {s t : State}
    (h : exec i s = .next t) (hs : PeripheralSound s) : PeripheralSound t := by
  cases i
  case cmdStart | cmdTx => cases h; exact hs.command usesFields_start
  case cmdRestart => cases h; exact hs.command usesFields_restart
  case cmdRxAck => cases h; exact hs.command usesFields_rxAck
  case cmdRxNoack => cases h; exact hs.command usesFields_rxNoack
  case cmdStop => cases h; exact hs.command usesFields_stop
  case cmdIdle => cases h; exact hs.command usesFields_idle
  case clrAll | clrIf => cases h; exact hs.writeS _
  case addrW | addrR | dataW => cases h; exact hs.writeD _
  case freqF | freqFlt | rdS | rdC1 => cases h; exact hs.congr rfl rfl rfl rfl
  all_goals cases hi

theorem PhaseGoes.peripheralSound {u : Nat} {s w : State} {p q : Phase} (h : PhaseGoes u s p q w)
    (hs : PeripheralSound s) : PeripheralSound w := by
  cases h with
  | freq => rw [programmed_frame]; exact hs.congr rfl rfl rfl rfl
  | clear => exact hs.writeS _
  | restart => exact hs.command usesFields_restart
  | start => exact hs.command usesFields_start
  | addr => exact hs.writeD _
  | exit => exact hs.command usesFields_idle
  | lock | init | loop | step | acq | test | waitfree | arm | wait | cancel | result | unlock =>
    exact hs.congr rfl rfl rfl rfl

theorem PhaseStep.peripheralSound {u : Nat} {p : Phase} {s t : State} (h : PhaseStep u p s t)
    (hs : PeripheralSound s) : PeripheralSound t := by
  cases h with
  | hold => exact hs
  | refuse => exact hs.congr rfl rfl rfl rfl
  | go _ hgo => exact (hgo.peripheralSound hs).congr rfl rfl rfl rfl
  | fault _ hraise =>
    rcases hraise.eq_or_opened with rfl | rfl
    · exact hs.congr rfl rfl rfl rfl
    · exact hs.congr rfl rfl rfl rfl

/-- The watchdog does not reach the peripheral (R203, R204). -/
theorem PeripheralSound.expireWatchdog {s : State} (hs : PeripheralSound s) :
    PeripheralSound (expireWatchdog s) := by
  unfold Machine.expireWatchdog watchdogHandler
  split_ifs <;> exact hs.congr rfl rfl rfl rfl

theorem PeripheralSound.callStep {s : State} (hs : PeripheralSound s) (u : Nat) (ctx : Context)
    (msgs : List Message) (count : Int) : PeripheralSound (callStep u ctx msgs count s) := by
  rcases callStep_cases u ctx msgs count s with h | ⟨-, -, -, h⟩ | h
  all_goals rw [h]; exact hs.congr rfl rfl rfl rfl

theorem PeripheralSound.of_runSlot {x : Slot} {s t : State} (h : runSlot x s = .next t)
    (hs : PeripheralSound s) : PeripheralSound t := by
  cases x with
  | word nbits w =>
    cases hd : decodeWord s.params.layout nbits w with
    | none => rw [runSlot_word_of_undecodable hd] at h; cases h
    | some i =>
      rw [runSlot_word_of_decoded hd] at h
      rcases decodeWord_rows hd with hi | hi
      · exact .of_registerRow hi h hs
      · exact sharedStable_peripheralSound.of_handlerRow hi h hs
  | move m =>
    cases m with
    | thread u =>
      cases hi : phaseInstr u (s.caller u).pc with
      | none =>
        rw [runSlot_move_of_unselected (m := .thread u) hi] at h
        cases h
        exact hs
      | some i =>
        rw [runSlot_move_of_selected (m := .thread u) hi] at h
        exact (phaseStep_of_phaseRow (phaseRow_of_phaseInstr hi) h).peripheralSound hs
    | irq => exact sharedStable_peripheralSound.of_handlerRow (i := .irqDeliver) rfl h hs
    | call u ctx msgs count => cases h; exact hs.callStep u ctx msgs count
    | resetCall => cases h; exact hs.congr rfl rfl rfl rfl
    | expire => cases h; exact hs.expireWatchdog
    | txComplete o => cases h; exact hs.txComplete o
    | rxComplete o => cases h; exact hs.rxComplete o
    | otherMaster busy => cases h; exact hs.otherMaster busy
    | stray a b c d =>
      cases h
      change PeripheralSound (strayFlags a b c d s)
      rwa [strayFlags_of_constrained hs.constrained]

end Sys2Proof.Machine

namespace Sys2Proof.Proofs

open Sys2Proof.Machine Sys2Proof.Claims

/-- Settles O10: every entry of the schedule keeps the peripheral sound, and taking it off touches no
register. -/
theorem stepKeepsPeripheralSound : Obligations.StepKeepsPeripheralSound := by
  intro s t hs h
  obtain ⟨x, rest, k, hrun, -, -⟩ := step_takes_entry h
  exact .of_runSlot hrun (hs.congr rfl rfl rfl rfl)

/-- Settles O18: the frame holds of no write and is kept by each write of the handler. -/
theorem handlerTouchesOnlySharedState : Obligations.HandlerTouchesOnlySharedState :=
  fun _ s _ hi h => (sharedStable_sharedFrame s).of_handlerRow hi h (.refl s)

/-- Settles O20, by the frame of each of the three moves. -/
theorem environmentTouchesOnlyThePeripheral : Obligations.EnvironmentTouchesOnlyThePeripheral := by
  rintro i s t (⟨o, rfl⟩ | ⟨o, rfl⟩ | ⟨busy, rfl⟩) h <;> cases h
  · exact txComplete_frame o s
  · exact rxComplete_frame o s
  · exact otherMaster_frame busy s

/-- Settles O22: each command is a write of C1, and such a write has the bus condition of its change of
MST. -/
theorem controlCommandsWriteTheirByte : Obligations.ControlCommandsWriteTheirByte := by
  intro s
  have hwrite v : C1Write v s (writeC1 v s) := c1Write_writeC1 v s
  exact ⟨⟨_, rfl, hwrite _⟩, ⟨_, rfl, hwrite _⟩, ⟨_, rfl, hwrite _⟩, ⟨_, rfl, hwrite _⟩,
    ⟨_, rfl, hwrite _⟩, ⟨_, rfl, hwrite _⟩, ⟨_, rfl, hwrite _⟩, fun v => ⟨_, rfl, hwrite v⟩⟩

/-- Settles O55, by the equation of each outcome. -/
theorem transmissionCompletes : Obligations.TransmissionCompletes := fun _ _ h =>
  ⟨⟨_, rfl, txComplete_ack h⟩, ⟨_, rfl, txComplete_nak h⟩, ⟨_, rfl, txComplete_lost h⟩⟩

/-- Settles O56, by the equation of each outcome. -/
theorem receptionCompletes : Obligations.ReceptionCompletes := fun _ _ h =>
  ⟨fun v => ⟨_, rfl, rxComplete_byte h v⟩, ⟨_, rfl, rxComplete_lost h⟩⟩

/-- Settles O57: the block is no master, so the move is enabled. -/
theorem otherMastersOnlyMoveBusy : Obligations.OtherMastersOnlyMoveBusy := fun _ h =>
  ⟨⟨_, rfl, otherMaster_of_not_master h true⟩, ⟨_, rfl, otherMaster_of_not_master h false⟩⟩

end Sys2Proof.Proofs
